-- ==== Sys2Proof/Word.lean ====
section
/-!
DEFINITION. The word types of F337.

The spec has three element sizes (R45 of 10_state.md): the byte of ES, the 16-bit word of the elementary stream, and
the 32-bit container of every other memory (R12 of 00_scope.md). A command word has 104 bits (R110 of 30_encoding.md).
-/

namespace Sys2Proof

/-- One element of the ES memory (R46). -/
abbrev Byte := BitVec 8

/-- One 16-bit word of the elementary stream, of FRAME and of FSBUF (R47, R48, R60). -/
abbrev Word16 := BitVec 16

/-- The 32-bit container, "the internal word of F337" (R12). -/
abbrev Container := BitVec 32

/-- One operand, and the value of the result port (R110, R118). -/
abbrev Word32 := BitVec 32

/-- One command word of the format CMD (R110). -/
abbrev CmdWord := BitVec 104

end Sys2Proof
end

