-- ==== Sys2Proof/Syntax.lean ====
section
/-!
DEFINITION. The operations of F337: one constructor for each row of spec/opcode_table.json (R111 of 30_encoding.md).

Operands are the unsigned 32-bit fields of the command word (R110, R112). A field marked "-" in R111 is no operand: any
value of it is accepted and has no effect (R113).
-/

namespace Sys2Proof

/-- The eighteen operations (R111). -/
inductive Instr where
  /-- SYS.RESET, op 0x01 (R301). -/
  | sysReset
  /-- CSR.RD, op 0x02: a = register number (R303). -/
  | csrRd (reg : Word32)
  /-- CSR.WR, op 0x03: a = register number, b = value (R305). -/
  | csrWr (reg value : Word32)
  /-- BU.INIT, op 0x10: a = depth N, b = len (R131). -/
  | buInit (depth len : Word32)
  /-- BU.UNPACK, op 0x11: a = numitems, b = numbits (R134). -/
  | buUnpack (numitems numbits : Word32)
  /-- BU.UNKEY, op 0x12: a = key, b = num_items (R138). -/
  | buUnkey (key numItems : Word32)
  /-- DE.PARSE, op 0x18: a = len, b = depth N (R181). -/
  | deParse (len depth : Word32)
  /-- HDR.PARSE, op 0x20 (R151). -/
  | hdrParse
  /-- HDR.PEEK, op 0x21 (R152). -/
  | hdrPeek
  /-- BSZ.SIZE, op 0x28: a = format, b = frame_rate_code, c = frame_index (R201). -/
  | bszSize (format frc frameIndex : Word32)
  /-- FS.OFFER, op 0x30 (R216). -/
  | fsOffer
  /-- FS.FLUSH, op 0x31 (R225). -/
  | fsFlush
  /-- FS.CLEAR, op 0x32 (R227). -/
  | fsClear
  /-- BURST.ENC, op 0x38 (R241). -/
  | burstEnc
  /-- BURST.ENCALT, op 0x39 (R248). -/
  | burstEncalt
  /-- BURST.ENCDE, op 0x3A: a = len, b = depth N (R254). -/
  | burstEncde (len depth : Word32)
  /-- SCAN.FIND, op 0x40 (R271). -/
  | scanFind
  /-- BURST.DEC, op 0x41 (R280). -/
  | burstDec
deriving DecidableEq, Repr

end Sys2Proof
end

