-- ==== Sys2Proof/Decode.lean ====
section
/-!
DEFINITION. Decoding and encoding command words (Part B of 30_encoding.md, R110 to R113).
-/

namespace Sys2Proof

/-- Why a command word is no operation. -/
inductive DecodeError where
  /-- The op value is not in the opcode table (R113). -/
  | illegalOp (op : BitVec 8)
deriving DecidableEq, Repr

/-- Field op, bits 103:96 (R110). -/
def cmdOp (w : CmdWord) : BitVec 8 := w.extractLsb' 96 8
/-- Field a, bits 95:64 (R110). -/
def cmdA (w : CmdWord) : Word32 := w.extractLsb' 64 32
/-- Field b, bits 63:32 (R110). -/
def cmdB (w : CmdWord) : Word32 := w.extractLsb' 32 32
/-- Field c, bits 31:0 (R110). -/
def cmdC (w : CmdWord) : Word32 := w.extractLsb' 0 32

/-- The operation of a command word, total on all of them (R111). Fields marked "-" are ignored (R113). -/
def decode (w : CmdWord) : Except DecodeError Instr :=
  match (cmdOp w).toNat with
  | 0x01 => .ok .sysReset
  | 0x02 => .ok (.csrRd (cmdA w))
  | 0x03 => .ok (.csrWr (cmdA w) (cmdB w))
  | 0x10 => .ok (.buInit (cmdA w) (cmdB w))
  | 0x11 => .ok (.buUnpack (cmdA w) (cmdB w))
  | 0x12 => .ok (.buUnkey (cmdA w) (cmdB w))
  | 0x18 => .ok (.deParse (cmdA w) (cmdB w))
  | 0x20 => .ok .hdrParse
  | 0x21 => .ok .hdrPeek
  | 0x28 => .ok (.bszSize (cmdA w) (cmdB w) (cmdC w))
  | 0x30 => .ok .fsOffer
  | 0x31 => .ok .fsFlush
  | 0x32 => .ok .fsClear
  | 0x38 => .ok .burstEnc
  | 0x39 => .ok .burstEncalt
  | 0x3A => .ok (.burstEncde (cmdA w) (cmdB w))
  | 0x40 => .ok .scanFind
  | 0x41 => .ok .burstDec
  | _ => .error (.illegalOp (cmdOp w))

/-- The command word with the given fields (R110). -/
def cmdWord (op : BitVec 8) (a b c : Word32) : CmdWord := op ++ (a ++ (b ++ c))

/-- The command word of an operation (R111); fields marked "-" assemble to 0 (R116). -/
def encode : Instr → CmdWord
  | .sysReset => cmdWord 0x01 0 0 0
  | .csrRd reg => cmdWord 0x02 reg 0 0
  | .csrWr reg value => cmdWord 0x03 reg value 0
  | .buInit depth len => cmdWord 0x10 depth len 0
  | .buUnpack numitems numbits => cmdWord 0x11 numitems numbits 0
  | .buUnkey key numItems => cmdWord 0x12 key numItems 0
  | .deParse len depth => cmdWord 0x18 len depth 0
  | .hdrParse => cmdWord 0x20 0 0 0
  | .hdrPeek => cmdWord 0x21 0 0 0
  | .bszSize format frc frameIndex => cmdWord 0x28 format frc frameIndex
  | .fsOffer => cmdWord 0x30 0 0 0
  | .fsFlush => cmdWord 0x31 0 0 0
  | .fsClear => cmdWord 0x32 0 0 0
  | .burstEnc => cmdWord 0x38 0 0 0
  | .burstEncalt => cmdWord 0x39 0 0 0
  | .burstEncde len depth => cmdWord 0x3A len depth 0
  | .scanFind => cmdWord 0x40 0 0 0
  | .burstDec => cmdWord 0x41 0 0 0

/-- The command word that spec/opcode_table.json numbers `w` in `nbits` bits: a command is one word, so its bits are
the table's bits, and those above `nbits` are 0. -/
def tableCmdWord (nbits w : Nat) : CmdWord := BitVec.ofNat 104 (w % 2 ^ nbits)

/-- What the decoder reads from a word of spec/opcode_table.json. -/
def decodeTableWord (nbits w : Nat) : Option Instr :=
  match decode (tableCmdWord nbits w) with
  | .ok i => some i
  | .error _ => none

end Sys2Proof
end

