-- ==== Sys2Proof/Machine/Bits.lean ====
section
/-!
DEFINITION. Bit fields, byte swap and left-justified containers (R11, R12 of 00_scope.md).
-/

namespace Sys2Proof.Machine

/-- `v[hi:lo]`: the unsigned value of bits `hi` down to `lo` (R11). -/
def bits (hi lo v : Nat) : Nat := (v >>> lo) % 2 ^ (hi - lo + 1)

/-- `swap16(w) = (w[7:0] << 8) | w[15:8]` (R11). -/
def swap16 (w : Word16) : Word16 := w.extractLsb' 0 8 ++ w.extractLsb' 8 8

/-- `ceil(a / b) = (a + b - 1) div b` (R11; the rule gives it for `b > 0`). -/
def ceilDiv (a b : Nat) : Nat := (a + b - 1) / b

/-- `lj(v, N) = v << (32 - N)`: the `N`-bit value `v` left-justified in a container (R12). -/
def lj (v n : Nat) : Container := BitVec.ofNat 32 (v <<< (32 - n))

/-- `rj(c, N) = c[31:32-N]`: the top `N` bits of a container, right-justified (R12). -/
def rj (c : Container) (n : Nat) : Nat := c.toNat >>> (32 - n)

/-- A flag as the number a register holds for it (1 when set). -/
def ofFlag (b : Bool) : Nat := if b then 1 else 0

end Sys2Proof.Machine
end

