-- ==== Sys2Proof/Config.lean ====
section
/-!
DEFINITION. The configuration record `Cfg` (R9 of 00_scope.md), the constants the source or a decision fixes, the
conditions on `Cfg` (Part 2 of 92_eei_decisions.md), and the one configuration of the machine after reset.

Every parameter the spec leaves OPEN is a field of `Cfg`; a model takes `Cfg` as an argument (R9, R20). `State` carries
it, no step writes it, and `State.reset` holds `Config.cfg`, of which nothing but `Cfg.wellFormed` can be proved
(assumption log 3). `Cfg.ref` is the REF instantiation of 93_implementation_defined.md section G, general knowledge and
not the source's: tests use it, no rule does (assumption log 16, PRESUMED).
-/

namespace Sys2Proof

/-! ## Constants the source or a decision fixes (R9, status `doc` or `decided`) -/

namespace Config

/-- PREAMBLE_WORDS, words in a burst preamble (R9, doc). -/
abbrev preambleWords : Nat := 4
/-- CAP_GUARD, words held back by the capacity test of FS.OFFER (R9, R220, doc). -/
abbrev capGuard : Nat := 4
/-- SET_BLOCKS, audio blocks that complete a frameset (R9, doc). -/
abbrev setBlocks : Nat := 6
/-- STREAM_SHIFT, left shift of the stream number in Pc (R9, R92, doc). -/
abbrev streamShift : Nat := 13
/-- PC_TYPE_MASK, bits of Pc compared on decode (R94, decided D23). -/
abbrev pcTypeMask : Nat := 0x1FFF
/-- HDR_WORDS, header words read on audio sync, the sync word included (R97, D9). -/
abbrev hdrWords : Nat := 4
/-- BSID_AC3_MAX (R98, R161, doc). -/
abbrev bsidAc3Max : Nat := 8
/-- BSID_EAC3_MIN (R98, R161, doc). -/
abbrev bsidEac3Min : Nat := 11
/-- BSID_EAC3_MAX (R98, R161, doc). -/
abbrev bsidEac3Max : Nat := 16
/-- SEQ_2997, burst sizes at 29.97 fps: the only burst sizes the source gives (R104, R204, doc). -/
abbrev seq2997 : List Nat := [3204, 3202, 3204, 3204, 3202]
/-- DE_PRE_ITEMS, items in the Dolby E frame's leading preamble (R101, R182, doc). -/
abbrev dePreItems : Nat := 4
/-- DE_KEYFLAG_BITS, width of key_present (R101, doc). -/
abbrev deKeyflagBits : Nat := 1
/-- DE_UNKEY1_ITEMS, words covered by the first unkey pass (R185, decided D16). -/
abbrev deUnkey1Items : Nat := 1
/-- DE_REV_BITS (R101, doc). -/
abbrev deRevBits : Nat := 4
/-- DE_SEG_BITS (R101, doc). -/
abbrev deSegBits : Nat := 10
/-- DE_PROG_BITS (R101, doc). -/
abbrev deProgBits : Nat := 6
/-- DE_FR_BITS (R101, doc). -/
abbrev deFrBits : Nat := 4

end Config

/-! ## The OPEN parameters -/

/-- Bits `hi` down to `lo` of header word `h[word]`, as the LAYOUT table of R97 (30_encoding.md) writes positions. -/
structure BitRange where
  word : Nat
  hi   : Nat
  lo   : Nat
deriving DecidableEq, Repr, Inhabited

/-- The number of bits of a range. -/
def BitRange.width (r : BitRange) : Nat := r.hi - r.lo + 1

/-- A range lies within one of the header words h0 .. h3. -/
def BitRange.ok (r : BitRange) : Bool := decide (r.word < 4) && decide (r.lo ≤ r.hi) && decide (r.hi < 16)

/-- The position of one header field: its bits as one or more ranges, the most significant first, in any of the header
words (R9, R97; assumption log 10, DEDUCED). -/
structure FieldPos where
  ranges : List BitRange
deriving DecidableEq, Repr, Inhabited

/-- The number of bits of a header field. -/
def FieldPos.width (f : FieldPos) : Nat := (f.ranges.map BitRange.width).sum

/-- "every entry lies within h0 .. h3" (92_eei_decisions.md Part 2, LAYOUT). -/
def FieldPos.ok (f : FieldPos) : Bool := !f.ranges.isEmpty && f.ranges.all BitRange.ok

/-- LAYOUT: where the header fields lie (R97). One L_BSID serves both kinds. -/
structure Layout where
  bsid        : FieldPos
  fscod       : FieldPos
  frmsizecod  : FieldPos
  strmtyp     : FieldPos
  substreamid : FieldPos
  frmsiz      : FieldPos
  efscod      : FieldPos
  numblkscod  : FieldPos
deriving DecidableEq, Repr, Inhabited

/-- The configuration record (R9). A width in a field's type is a bound that Part 2 of 92_eei_decisions.md or a register
width states: sync words below `2^N`, format ids below `2^13`, Dolby E sync fields below `2^(N-1)`, burst sizes and frame
sizes as wide as the registers that receive them. -/
structure Cfg where
  /-- PA[16], PA[20], PA[24] (R91). -/
  pa16 : BitVec 16
  pa20 : BitVec 20
  pa24 : BitVec 24
  /-- PB[16], PB[20], PB[24] (R91). -/
  pb16 : BitVec 16
  pb20 : BitVec 20
  pb24 : BitVec 24
  /-- FMT_ID[AC3], FMT_ID[EAC3] (R92). -/
  fmtIdAc3  : BitVec 13
  fmtIdEac3 : BitVec 13
  /-- FMT_ID_DE[16], FMT_ID_DE[20], FMT_ID_DE[24] (R92). -/
  fmtIdDe16 : BitVec 13
  fmtIdDe20 : BitVec 13
  fmtIdDe24 : BitVec 13
  /-- AC3_SYNC and TC_SYNC (R95), TC_RECORD_WORDS (R96). -/
  ac3Sync : BitVec 16
  tcSync  : BitVec 16
  tcRecordWords : Nat
  /-- LAYOUT (R97). -/
  layout : Layout
  /-- N_FSCOD, N_FRMSIZECOD and AC3_FRAME_WORDS, a row for each sample_rate_code (R162). -/
  nFscod : Nat
  nFrmsizecod : Nat
  ac3FrameWords : List (List (BitVec 16))
  /-- EAC3_FRMSIZ_BIAS and FSCOD_FORCE6 (R163). -/
  eac3FrmsizBias : Nat
  fscodForce6 : Nat
  /-- ST_INDEP, ST_DEP, ST_TRANS (R99). -/
  stIndep : Nat
  stDep   : Nat
  stTrans : Nat
  /-- BS[AC3], BS[EAC3] (R202). -/
  bsAc3  : BitVec 32
  bsEac3 : BitVec 32
  /-- DE_FRCODES, FRC_2997, and BS_DE as pairs of a code and its size (R202). -/
  deFrcodes : List Nat
  frc2997   : Nat
  bsDe      : List (Nat × BitVec 32)
  /-- ALT_POINT, a row for each sample_rate_code (R103, R251). -/
  altPoint : List (List Nat)
  /-- DE_SYNC_EXPECT[16], [20], [24] (R189). -/
  deSyncExpect16 : BitVec 15
  deSyncExpect20 : BitVec 19
  deSyncExpect24 : BitVec 23
  /-- FSBUF_CAP, FRAME_CAP, DEBUF_CAP, BUOUT_CAP (R45, D4). -/
  fsbufCap : Nat
  frameCap : Nat
  debufCap : Nat
  buoutCap : Nat
deriving DecidableEq, Repr, Inhabited

namespace Cfg

/-- A table with a row for each of `n` first indices and an entry for each of `m` second indices. -/
def tableOk {α : Type} (t : List (List α)) (n m : Nat) : Bool :=
  decide (n ≤ t.length) && (t.take n).all fun row => decide (m ≤ row.length)

/-- Conditions on the sync words and format ids: R273 (a) and (b), and "pairwise different between formats". -/
def preambleOk (c : Cfg) : Bool :=
  c.pa16 != 0 && c.pa20 != 0 && c.pa24 != 0 &&
  c.pa20.toNat >>> 4 != c.pa16.toNat && c.pa24.toNat >>> 8 != c.pa16.toNat && c.pa24.toNat >>> 4 != c.pa20.toNat &&
  c.fmtIdAc3 != c.fmtIdEac3 &&
  [c.fmtIdDe16, c.fmtIdDe20, c.fmtIdDe24].all fun d => d != c.fmtIdAc3 && d != c.fmtIdEac3

/-- Conditions on the elementary stream's syncs (R95). -/
def syncOk (c : Cfg) : Bool :=
  c.ac3Sync != Machine.swap16 c.ac3Sync &&
  c.tcSync != c.ac3Sync && c.tcSync != Machine.swap16 c.ac3Sync &&
  Machine.swap16 c.tcSync != c.ac3Sync && Machine.swap16 c.tcSync != Machine.swap16 c.ac3Sync &&
  decide (1 ≤ c.tcRecordWords)

/-- Conditions on the header decoder's parameters. That an announced frame size fits the 16 bits of H_FRAMEWORDS and a
block-count code the four entries of NUMBLKS is DEDUCED (assumption log 13). -/
def headerOk (c : Cfg) : Bool :=
  let l := c.layout
  l.bsid.ok && l.fscod.ok && l.frmsizecod.ok && l.strmtyp.ok && l.substreamid.ok && l.frmsiz.ok && l.efscod.ok &&
  l.numblkscod.ok && decide (l.numblkscod.width ≤ 2) &&
  tableOk c.ac3FrameWords c.nFscod c.nFrmsizecod && tableOk c.altPoint c.nFscod c.nFrmsizecod &&
  decide (c.eac3FrmsizBias ≤ 1) && decide (2 ^ l.frmsiz.width - 1 + c.eac3FrmsizBias < 2 ^ 16) &&
  decide (c.fscodForce6 < 2 ^ l.efscod.width) &&
  c.stIndep != c.stDep && c.stIndep != c.stTrans && c.stDep != c.stTrans &&
  decide (c.stIndep < 2 ^ l.strmtyp.width) && decide (c.stDep < 2 ^ l.strmtyp.width) &&
  decide (c.stTrans < 2 ^ l.strmtyp.width)

/-- Every size BSZ.SIZE can return (R202, R205). -/
def burstSizes (c : Cfg) : List Nat :=
  c.bsAc3.toNat :: c.bsEac3.toNat :: Config.seq2997 ++ c.bsDe.map fun e => e.2.toNat

/-- Conditions on the burst sizes (R202): five known codes, FRC_2997 among them, BS_DE defined on the other four. -/
def sizesOk (c : Cfg) : Bool :=
  c.burstSizes.all (fun s => decide (9 ≤ s)) &&
  decide (c.deFrcodes.length = 5) && decide c.deFrcodes.Nodup && c.deFrcodes.all (fun f => decide (f < 16)) &&
  c.deFrcodes.contains c.frc2997 &&
  c.deFrcodes.all fun f => f == c.frc2997 || (c.bsDe.lookup f).isSome

/-- Lower bounds of the memory sizes (R47, R48, D4). -/
def capsOk (c : Cfg) : Bool :=
  c.burstSizes.all (fun s => decide (s ≤ c.fsbufCap)) &&
  c.ac3FrameWords.all (fun row => row.all fun w => decide (w.toNat ≤ c.frameCap)) &&
  decide (2 ^ c.layout.frmsiz.width - 1 + c.eac3FrmsizBias ≤ c.frameCap) &&
  decide (1 ≤ c.buoutCap)

/-- The conditions that make the rules well defined (92_eei_decisions.md Part 2; U23 calls it `Cfg.wellFormed`). -/
def wellFormed (c : Cfg) : Bool := c.preambleOk && c.syncOk && c.headerOk && c.sizesOk && c.capsOk

/-! ## The REF instantiation (93_implementation_defined.md G1 to G13, G17), PRESUMED -/

/-- G6, fscod 0 (48 kHz). -/
def refRow48 : List (BitVec 16) :=
  [64, 64, 80, 80, 96, 96, 112, 112, 128, 128, 160, 160, 192, 192, 224, 224, 256, 256, 320, 320] ++
  [384, 384, 448, 448, 512, 512, 640, 640, 768, 768, 896, 896, 1024, 1024, 1152, 1152, 1280, 1280]

/-- G6, fscod 1 (44.1 kHz). -/
def refRow44 : List (BitVec 16) :=
  [69, 70, 87, 88, 104, 105, 121, 122, 139, 140, 174, 175, 208, 209, 243, 244, 278, 279, 348, 349] ++
  [417, 418, 487, 488, 557, 558, 696, 697, 835, 836, 975, 976, 1114, 1115, 1253, 1254, 1393, 1394]

/-- G6, fscod 2 (32 kHz). -/
def refRow32 : List (BitVec 16) :=
  [96, 96, 120, 120, 144, 144, 168, 168, 192, 192, 240, 240, 288, 288, 336, 336, 384, 384, 480, 480] ++
  [576, 576, 672, 672, 768, 768, 960, 960, 1152, 1152, 1344, 1344, 1536, 1536, 1728, 1728, 1920, 1920]

/-- REF LAYOUT (R97, G5). -/
def refLayout : Layout where
  bsid        := ⟨[⟨2, 7, 3⟩]⟩
  fscod       := ⟨[⟨2, 15, 14⟩]⟩
  frmsizecod  := ⟨[⟨2, 13, 8⟩]⟩
  strmtyp     := ⟨[⟨1, 15, 14⟩]⟩
  substreamid := ⟨[⟨1, 13, 11⟩]⟩
  frmsiz      := ⟨[⟨1, 10, 0⟩]⟩
  efscod      := ⟨[⟨2, 15, 14⟩]⟩
  numblkscod  := ⟨[⟨2, 13, 12⟩]⟩

/-- The REF instantiation. ALT_POINT has no reference value (G12): every entry is the test-only value 2048. -/
def ref : Cfg where
  pa16 := 0xF872
  pa20 := 0x6F872
  pa24 := 0x96F872
  pb16 := 0x4E1F
  pb20 := 0x54E1F
  pb24 := 0xA54E1F
  fmtIdAc3 := 0x0001
  fmtIdEac3 := 0x0010
  fmtIdDe16 := 0x001C
  fmtIdDe20 := 0x003C
  fmtIdDe24 := 0x005C
  ac3Sync := 0x0B77
  tcSync := 0x0110
  tcRecordWords := 8
  layout := refLayout
  nFscod := 3
  nFrmsizecod := 38
  ac3FrameWords := [refRow48, refRow44, refRow32]
  eac3FrmsizBias := 1
  fscodForce6 := 3
  stIndep := 0
  stDep := 1
  stTrans := 2
  bsAc3 := 3072
  bsEac3 := 3072
  deFrcodes := [1, 2, 3, 4, 5]
  frc2997 := 4
  bsDe := [(1, 4004), (2, 4000), (3, 3840), (5, 3200)]
  altPoint := List.replicate 3 (List.replicate 38 2048)
  deSyncExpect16 := 0x03C7
  deSyncExpect20 := 0x03C47
  deSyncExpect24 := 0x03C447
  fsbufCap := 4096
  frameCap := 2048
  debufCap := 4096
  buoutCap := 4096

end Cfg

/-! ## Free values -/

/-- The block count of a block-count code above 3, for which NUMBLKS has no entry (R99): nothing constrains it but the 3
bits of H_BLOCKS (assumption log 20, DESIGN CHOICE). -/
opaque Config.numBlksBeyond : Nat → BitVec 3

/-! ## The machine's configuration -/

/-- What the implementation chose: an opaque record, no value of which can be proved. -/
opaque Config.raw : Cfg

/-- The configuration of the machine after reset: the implementation's choice, which the spec requires to meet
`Cfg.wellFormed`. The fallback only shows that a well-formed record exists; all that can be proved of `Config.cfg` is
that it is well formed (assumption log 3, DESIGN CHOICE). -/
def Config.cfg : Cfg := if Config.raw.wellFormed then Config.raw else Cfg.ref

end Sys2Proof
end

