-- ==== Sys2Proof/Machine/Memory.lean ====
section
/-!
DEFINITION. One random-access memory of F337 (R45 of 10_state.md): "its own address space, indexed from 0 in its own
element size".

A memory is a list of cells, an element index with its contents, in one canonical form (`Memory.wf`): indices strictly
rising, and no cell that holds what an unlisted element reads as. A `Memory 8` is a list of `Host.Cell`. The word
memories are kept in elements and not in bytes, because a word of F337 has no byte order (R63, R65; assumption log 7).
-/

namespace Sys2Proof.Machine

/-- A memory of `w`-bit elements. -/
structure Memory (w : Nat) where
  cells : List (Nat × BitVec w)
deriving DecidableEq, Repr

namespace Memory

/-- What an element that nothing has written reads as (assumption log 6, DESIGN CHOICE, unsafe). -/
def unlisted (w : Nat) : BitVec w := 0#w

/-- The canonical form: indices strictly rising, no cell equal to what an unlisted element reads as. -/
abbrev wf {w : Nat} (m : Memory w) : Prop :=
  (m.cells.map Prod.fst).Pairwise (· < ·) ∧ ∀ e ∈ m.cells, e.2 ≠ unlisted w

/-- A memory in which nothing is listed. -/
def empty (w : Nat) : Memory w := ⟨[]⟩

/-- The contents of element `a` in a list of cells. -/
def readCells {w : Nat} : List (Nat × BitVec w) → Nat → BitVec w
  | [], _ => unlisted w
  | (k, v) :: rest, a => if a = k then v else readCells rest a

/-- `SPACE[a]` (R13). -/
def read {w : Nat} (m : Memory w) (a : Nat) : BitVec w := readCells m.cells a

/-- The cells with `(a, v)` in front, unless that is what an unlisted element reads as. -/
def consCell {w : Nat} (a : Nat) (v : BitVec w) (rest : List (Nat × BitVec w)) : List (Nat × BitVec w) :=
  if v = unlisted w then rest else (a, v) :: rest

/-- The cells after element `a` is set to `v`, in canonical form when they were. -/
def writeCells {w : Nat} : List (Nat × BitVec w) → Nat → BitVec w → List (Nat × BitVec w)
  | [], a, v => consCell a v []
  | (k, x) :: rest, a, v =>
    if a < k then consCell a v ((k, x) :: rest)
    else if a = k then consCell a v rest
    else (k, x) :: writeCells rest a v

/-- `SPACE[a] <- v`. -/
def write {w : Nat} (m : Memory w) (a : Nat) (v : BitVec w) : Memory w := ⟨writeCells m.cells a v⟩

/-- `SPACE[a .. a+n)`, the `n` consecutive elements from index `a` (R13, MemRead). -/
def readList {w : Nat} (m : Memory w) (a n : Nat) : List (BitVec w) := (List.range n).map fun i => m.read (a + i)

/-- `SPACE[a .. a+n) <- vs` for the `n` elements of `vs` (R13, MemWrite). -/
def writeList {w : Nat} (m : Memory w) (a : Nat) : List (BitVec w) → Memory w
  | [] => m
  | v :: vs => (m.write a v).writeList (a + 1) vs

/-- A memory that holds `vs` from index 0. -/
def ofList {w : Nat} (vs : List (BitVec w)) : Memory w := (empty w).writeList 0 vs

end Memory

end Sys2Proof.Machine
end

