-- ==== Sys2Proof/Machine/State.lean ====
section
/-!
DEFINITION. The state of F337 (10_state.md, R20 to R54), the reasons a step can stop, and the state after reset.

The registers stand in one record for each register table of 10_state.md. A register that holds a member of an
enumeration of R14 (00_scope.md) has that enumeration as its type, a 1-bit flag is a `Bool`, and a 32-bit counter of U22
or a statistics register of U9 is a natural; CSR.RD gives each its number (`State.readReg` in Operands.lean).
-/

namespace Sys2Proof.Machine

/-! ## Enumerations (R14 of 00_scope.md) -/

/-- Format: what BSZ.SIZE is asked for and what a preamble announces. -/
inductive Format where
  | ac3 | eac3 | dolbye | unknown
deriving DecidableEq, Repr

/-- The two members of Format that H_KIND and FS_FORMAT can hold (R32, R37, R244). -/
inductive ElemKind where
  | ac3 | eac3
deriving DecidableEq, Repr

/-- FsState, the states of the accumulator (R36). -/
inductive FsState where
  | accumulating | complete | flushedShort
deriving DecidableEq, Repr

/-- StreamType, the decoded meaning of the stream-type field (R99). -/
inductive StreamType where
  | indep | dep | trans | other
deriving DecidableEq, Repr

/-- Stop, why a header operation ended (R158). -/
inductive StopCode where
  | none | newslice | eos | hdronly
deriving DecidableEq, Repr

/-- Mode, the burst data mode N = 16, 20 or 24 (R10, R14). A register that holds the mode and can hold 0, "none", is an
`Option DataMode`. -/
inductive DataMode where
  | m16 | m20 | m24
deriving DecidableEq, Repr

/-- The nine memories (R45). -/
inductive Space where
  | es | frame | fsbuf | deframe | debuf | buout | burstout | pcm | payout
deriving DecidableEq, Repr

/-- The error kinds (R321). Eof is a condition and never raised; UnsupportedContainer is reserved (R324). -/
inductive ErrKind where
  | readError | syncError | invalidSampleRate | invalidDataRate | invalidBsid | eof | capacityExceeded
  | unsupportedContainer | configError | illegalOp
deriving DecidableEq, Repr

/-! ## Reasons a step stops -/

/-- Faults of the model. An error the spec calls fatal is none of these: it latches STATUS.FAULT and the machine goes on
(R325, R327). -/
inductive Fault where
  /-- An access to an element that its memory does not have (R45), raised by HDR.PARSE, FS.OFFER, BURST.ENC,
  BURST.ENCALT, BU.UNPACK and BU.UNKEY. Safe: the model stops where the spec says nothing exists, and no state that meets
  the bounds of R47, R48 and R53 reaches it (assumption log 12). -/
  | noSuchElement (space : Space)
  /-- An index on which the configuration defines no entry of AC3_FRAME_WORDS, BS_DE or ALT_POINT, raised by HDR.PARSE,
  HDR.PEEK, BSZ.SIZE and BURST.ENCALT. Safe: Cfg's conditions exclude it (R202, R250; assumption log 12). -/
  | noTableEntry
deriving DecidableEq, Repr

/-- Refusals: "the operation is outside the caller's contract; ... a model gives it no step" (R13, R334). Each but the
last is one reason of R335, under the words the operation's own rule uses. All are safe: the model stops where no source
says what the hardware does (assumption log 11). -/
inductive Refusal where
  /-- BU.INIT, DE.PARSE, BURST.ENCDE: the depth operand is not 16, 20 or 24 (R131, R181, R254). -/
  | badBitDepth
  /-- BU.INIT, DE.PARSE, BURST.ENCDE: len > DEBUF_CAP (R131, R181, R254). -/
  | bufferTooLong
  /-- BU.UNPACK, BU.UNKEY: BU_DEPTH = 0 (R134, R138). -/
  | unpackerNotInitialised
  /-- BU.UNPACK: numbits outside 1 .. 32 (R134). -/
  | badFieldWidth
  /-- BU.UNPACK: numitems > BUOUT_CAP (R134). -/
  | tooManyItems
  /-- FS.OFFER: FS_STATE is not ACCUMULATING (R216). -/
  | framesetClosed
  /-- FS.OFFER: H_VALID = 0 or FRAME_VALID = 0 (R216). -/
  | noFrame
  /-- FS.OFFER, BURST.ENC, BURST.ENCALT, BURST.ENCDE: BSZ_VALID = 0 (R216, R241, R248, R254). -/
  | noBurstSize
  /-- BURST.ENC, BURST.ENCALT: FS_STATE is ACCUMULATING (R241, R248). -/
  | framesetNotClosed
  /-- BURST.DEC: SC_LOCKED = 0 (R280). -/
  | noLocatedPreamble
  /-- CSR.WR: an ES_POS value that is odd or above ES_LEN, a PCM_POS value above PCM_LEN (R306). -/
  | badSeek
  /-- An operation that has no meaning yet: exec's refused arms, none at present. -/
  | notModelled (mnemonic : String)
deriving DecidableEq, Repr

/-! ## The register tables -/

/-- Configuration registers (R23 to R27). -/
structure ConfRegs where
  /-- CFG_ALT (R23). -/
  alt       : Bool
  /-- CFG_STREAMNUM (R24). -/
  streamNum : BitVec 3
  /-- CFG_CW (R25). -/
  cw        : BitVec 6
deriving DecidableEq, Repr

/-- Status registers (R28, R29). -/
structure StatRegs where
  /-- STATUS: bit 0 FAULT, bit 1 WARN, bit 2 EOF (R28). -/
  status    : BitVec 3
  /-- ERRCODE (R29). -/
  errCode   : BitVec 8
  /-- ERRINFO (R29). -/
  errInfo   : BitVec 32
  /-- WARN_COUNT (R29, U22). -/
  warnCount : Nat
deriving DecidableEq, Repr

/-- Stream registers (R30). -/
structure StreamRegs where
  /-- ES_POS, a byte offset (R22). -/
  esPos       : BitVec 32
  /-- ES_LEN, the environment's. -/
  esLen       : BitVec 32
  /-- PCM_POS, a word index (R22). -/
  pcmPos      : BitVec 32
  /-- PCM_LEN, the environment's. -/
  pcmLen      : BitVec 32
  /-- BURSTOUT_LEN (U22). -/
  burstoutLen : Nat
  /-- PAYOUT_LEN (U22). -/
  payoutLen   : Nat
  /-- OUT_CW. -/
  outCw       : BitVec 6
deriving DecidableEq, Repr

/-- Bit unpacker registers (R31). -/
structure BuRegs where
  /-- BU_DEPTH; `none` is 0, "not initialised". -/
  depth : Option DataMode
  /-- BU_LEN. -/
  len   : BitVec 32
  /-- BU_WP. -/
  wp    : BitVec 32
  /-- BU_BP. -/
  bp    : BitVec 5
deriving DecidableEq, Repr

/-- Frame-header registers (R32). The four that R33 sizes from LAYOUT hold a number below two to the power of the width
that Operands.lean gives them (`hBsidWidth` and so on; assumption log 9). -/
structure HdrRegs where
  /-- H_VALID. -/
  valid       : Bool
  /-- H_KIND. -/
  kind        : ElemKind
  /-- H_BSID, sized from LAYOUT. -/
  bsid        : Nat
  /-- H_FSCOD, sized from LAYOUT. -/
  fscod       : Nat
  /-- H_FRMSIZECOD, sized from LAYOUT. -/
  frmsizecod  : Nat
  /-- H_FRAMEWORDS. -/
  frameWords  : BitVec 16
  /-- H_BLOCKS. -/
  blocks      : BitVec 3
  /-- H_STRMTYP. -/
  strmtyp     : StreamType
  /-- H_SUBSTREAMID, sized from LAYOUT. -/
  substreamid : Nat
  /-- H_BYTEREV. -/
  byterev     : Bool
  /-- H_START. -/
  start       : BitVec 32
  /-- H_STOP. -/
  stop        : StopCode
  /-- H_TCSEEN. -/
  tcSeen      : Bool
  /-- FRAME_VALID. -/
  frameValid  : Bool
  /-- H_CONSUMED (U22). -/
  consumed    : Nat
deriving DecidableEq, Repr

/-- Dolby E header registers (R34). -/
structure DeRegs where
  /-- DE_BITDEPTH; `none` is the 0 of reset. -/
  bitDepth   : Option DataMode
  /-- DE_FRAMEWORDS. -/
  frameWords : BitVec 32
  /-- DE_FRCODE. -/
  frcode     : BitVec 4
  /-- DE_KEYPRESENT. -/
  keyPresent : Bool
  /-- DE_KEY. -/
  key        : BitVec 24
  /-- DE_SYNCF. -/
  syncf      : BitVec 24
  /-- DE_REVID. -/
  revid      : BitVec 4
  /-- DE_SEGSIZE. -/
  segsize    : BitVec 10
  /-- DE_PROGCFG. -/
  progcfg    : BitVec 6
  /-- DE_PRE0. -/
  pre0       : BitVec 24
  /-- DE_PRE1. -/
  pre1       : BitVec 24
  /-- DE_PRE2. -/
  pre2       : BitVec 24
  /-- DE_PRE3. -/
  pre3       : BitVec 24
  /-- DE_VALID. -/
  valid      : Bool
deriving DecidableEq, Repr

/-- Burst-size registers (R35). -/
structure BszRegs where
  /-- BSZ_SIZE. -/
  size    : BitVec 32
  /-- BSZ_VALID. -/
  valid   : Bool
  /-- DE_INDEX, which does not wrap (R258, U22). -/
  deIndex : Nat
deriving DecidableEq, Repr

/-- Frameset registers (R36, R37). FS_FSCOD and FS_FRMSIZECOD are as wide as the registers they copy (R33). -/
structure FsRegs where
  /-- FS_STATE. -/
  state      : FsState
  /-- FS_WORDS (U22). -/
  words      : Nat
  /-- FS_BLOCKS. -/
  blocks     : BitVec 4
  /-- FS_BPF. -/
  bpf        : BitVec 3
  /-- FS_NFRAMES (U22). -/
  nframes    : Nat
  /-- FS_FORMAT. -/
  format     : ElemKind
  /-- FS_FSCOD, sized from LAYOUT. -/
  fscod      : Nat
  /-- FS_FRMSIZECOD, sized from LAYOUT. -/
  frmsizecod : Nat
deriving DecidableEq, Repr

/-- Scanner and decode registers (R38). -/
structure ScanRegs where
  /-- SC_LOCKED. -/
  locked   : Bool
  /-- SC_MODE; `none` is the 0 of reset. -/
  mode     : Option DataMode
  /-- SC_PC. -/
  pc       : BitVec 16
  /-- SC_PD. -/
  pd       : BitVec 24
  /-- SC_TYPE. -/
  type     : Format
  /-- SC_PAPOS. -/
  papos    : BitVec 32
  /-- DEC_WORDS. -/
  decWords : BitVec 32
  /-- DEC_BYTES. -/
  decBytes : BitVec 32
deriving DecidableEq, Repr

/-- Decoder statistics ST_*, "unbounded naturals" (R39, U9). -/
structure StatsRegs where
  /-- ST_FINDS. -/
  finds   : Nat
  /-- ST_LASTPOS. -/
  lastpos : Nat
  /-- ST_NSPACE. -/
  nspace  : Nat
  /-- ST_SUM. -/
  sum     : Nat
  /-- ST_MIN. -/
  min     : Nat
  /-- ST_MAX. -/
  max     : Nat
  /-- ST_PARCHG. -/
  parchg  : Nat
  /-- ST_PCCHG. -/
  pcchg   : Nat
  /-- ST_PDCHG. -/
  pdchg   : Nat
  /-- ST_LASTPAR. -/
  lastpar : Nat
  /-- ST_LASTPC. -/
  lastpc  : Nat
  /-- ST_LASTPD. -/
  lastpd  : Nat
deriving DecidableEq, Repr

/-! ## The state -/

/-- Everything the spec gives the machine (R20), and two fields of the model's own: `cfg` and `port`. -/
structure State where
  /-- The configuration record, an argument of every step that no step writes (R20; assumption log 3). -/
  cfg      : Cfg
  /-- The command words the host presents on the command port, oldest first (R8, R110; assumption log 1). -/
  port     : List CmdWord
  /-- The value on the result port (R8, R118). -/
  result   : Word32
  conf     : ConfRegs
  stat     : StatRegs
  strm     : StreamRegs
  bu       : BuRegs
  hdr      : HdrRegs
  de       : DeRegs
  bsz      : BszRegs
  fs       : FsRegs
  sc       : ScanRegs
  st       : StatsRegs
  /-- The elementary stream, bytes (R46). -/
  es       : Memory 8
  /-- The staging buffer of one frame (R47). -/
  frame    : Memory 16
  /-- The frameset's buffer (R48). -/
  fsbuf    : Memory 16
  /-- The Dolby E frame the host presents (R49). -/
  deframe  : Memory 32
  /-- The scratch copy the bit unpacker works on (R49). -/
  debuf    : Memory 32
  /-- The output array of BU.UNPACK (R50). -/
  buout    : Memory 32
  /-- The encode output, append only (R51). -/
  burstout : List Container
  /-- The decode input (R52). -/
  pcm      : Memory 32
  /-- The decode output, append only (R52). -/
  payout   : List Container
deriving DecidableEq, Repr

/-! ## Reset (R54, R360) -/

/-- CFG_ALT, CFG_STREAMNUM 0 and CFG_CW 16 (R360). -/
def ConfRegs.reset : ConfRegs where
  alt := false
  streamNum := 0
  cw := 16

/-- STATUS, ERRCODE, ERRINFO, WARN_COUNT 0 (R360). -/
def StatRegs.reset : StatRegs where
  status := 0
  errCode := 0
  errInfo := 0
  warnCount := 0

/-- Cursors and output lengths 0 (R360). ES_LEN and PCM_LEN are the environment's: 0, nothing presented, is the model's
choice for `State.reset` (assumption log 5), and SYS.RESET keeps them. -/
def StreamRegs.reset : StreamRegs where
  esPos := 0
  esLen := 0
  pcmPos := 0
  pcmLen := 0
  burstoutLen := 0
  payoutLen := 0
  outCw := 0

/-- BU_* 0; BU_DEPTH = 0 means "not initialised" (R360). -/
def BuRegs.reset : BuRegs where
  depth := none
  len := 0
  wp := 0
  bp := 0

/-- H_VALID, FRAME_VALID and all H_* 0 (R360). -/
def HdrRegs.reset : HdrRegs where
  valid := false
  kind := .ac3
  bsid := 0
  fscod := 0
  frmsizecod := 0
  frameWords := 0
  blocks := 0
  strmtyp := .indep
  substreamid := 0
  byterev := false
  start := 0
  stop := .none
  tcSeen := false
  frameValid := false
  consumed := 0

/-- DE_VALID and all DE_* header registers 0 (R360). -/
def DeRegs.reset : DeRegs where
  bitDepth := none
  frameWords := 0
  frcode := 0
  keyPresent := false
  key := 0
  syncf := 0
  revid := 0
  segsize := 0
  progcfg := 0
  pre0 := 0
  pre1 := 0
  pre2 := 0
  pre3 := 0
  valid := false

/-- BSZ_SIZE, BSZ_VALID, DE_INDEX 0 (R360). -/
def BszRegs.reset : BszRegs where
  size := 0
  valid := false
  deIndex := 0

/-- "initial state `ACCUMULATING` with zero blocks/words" (R36, R54, R360). -/
def FsRegs.reset : FsRegs where
  state := .accumulating
  words := 0
  blocks := 0
  bpf := 0
  nframes := 0
  format := .ac3
  fscod := 0
  frmsizecod := 0

/-- SC_LOCKED and all SC_*, DEC_WORDS, DEC_BYTES 0 (R360). -/
def ScanRegs.reset : ScanRegs where
  locked := false
  mode := none
  pc := 0
  pd := 0
  type := .ac3
  papos := 0
  decWords := 0
  decBytes := 0

/-- All ST_* 0 (R360). -/
def StatsRegs.reset : StatsRegs where
  finds := 0
  lastpos := 0
  nspace := 0
  sum := 0
  min := 0
  max := 0
  parchg := 0
  pcchg := 0
  pdchg := 0
  lastpar := 0
  lastpc := 0
  lastpd := 0

/-- The machine right after power-on (R360), before the host has presented a memory or a command. -/
def State.reset : State where
  cfg := Config.cfg
  port := []
  result := 0
  conf := ConfRegs.reset
  stat := StatRegs.reset
  strm := StreamRegs.reset
  bu := BuRegs.reset
  hdr := HdrRegs.reset
  de := DeRegs.reset
  bsz := BszRegs.reset
  fs := FsRegs.reset
  sc := ScanRegs.reset
  st := StatsRegs.reset
  es := Memory.empty 8
  frame := Memory.empty 16
  fsbuf := Memory.empty 16
  deframe := Memory.empty 32
  debuf := Memory.empty 32
  buout := Memory.empty 32
  burstout := []
  pcm := Memory.empty 32
  payout := []

end Sys2Proof.Machine
end

