-- ==== Sys2Proof/Machine/Operands.lean ====
section
/-!
DEFINITION. Operand forms: the bit-depth operand, the codes of the enumerations, the parameters of `Cfg` indexed by data
mode and format, and the register file of CSR.RD and CSR.WR (R21, R23 to R42 of 10_state.md; R303 to R307 of
48_system.md).
-/

namespace Sys2Proof.Machine

/-! ## Data modes -/

/-- The number N of a data mode (R10). -/
def DataMode.bits : DataMode → Nat
  | .m16 => 16
  | .m20 => 20
  | .m24 => 24

/-- A bit-depth operand: 16, 20 or 24, else outside the caller's contract (R131, R181, R254). -/
def depthOf (n : Nat) : Option DataMode :=
  if n = 16 then some .m16 else if n = 20 then some .m20 else if n = 24 then some .m24 else none

/-- The number a register shows for an optional mode: 0 means none (R14). -/
def modeCode : Option DataMode → Nat
  | none => 0
  | some m => m.bits

/-! ## Codes of the enumerations (R14 of 00_scope.md) -/

/-- Format codes. -/
def Format.code : Format → Nat
  | .ac3 => 0
  | .eac3 => 1
  | .dolbye => 2
  | .unknown => 3

/-- The format a code names. -/
def Format.ofCode : Nat → Option Format
  | 0 => some .ac3
  | 1 => some .eac3
  | 2 => some .dolbye
  | 3 => some .unknown
  | _ => none

/-- H_KIND and FS_FORMAT show Format codes (R32, R36). -/
def ElemKind.code : ElemKind → Nat
  | .ac3 => 0
  | .eac3 => 1

/-- FsState codes. -/
def FsState.code : FsState → Nat
  | .accumulating => 0
  | .complete => 1
  | .flushedShort => 2

/-- StreamType codes. -/
def StreamType.code : StreamType → Nat
  | .indep => 0
  | .dep => 1
  | .trans => 2
  | .other => 3

/-- Stop codes. -/
def StopCode.code : StopCode → Nat
  | .none => 0
  | .newslice => 1
  | .eos => 2
  | .hdronly => 3

/-- ERRCODE of each error kind (R321). -/
def ErrKind.code : ErrKind → BitVec 8
  | .readError => 1
  | .syncError => 2
  | .invalidSampleRate => 3
  | .invalidDataRate => 4
  | .invalidBsid => 5
  | .eof => 6
  | .capacityExceeded => 7
  | .unsupportedContainer => 8
  | .configError => 9
  | .illegalOp => 10

/-! ## Parameters of Cfg by mode and format -/

/-- PA[N] (R91). -/
def paOf (c : Cfg) : DataMode → Nat
  | .m16 => c.pa16.toNat
  | .m20 => c.pa20.toNat
  | .m24 => c.pa24.toNat

/-- PB[N] (R91). -/
def pbOf (c : Cfg) : DataMode → Nat
  | .m16 => c.pb16.toNat
  | .m20 => c.pb20.toNat
  | .m24 => c.pb24.toNat

/-- FMT_ID[AC3], FMT_ID[EAC3] (R92, R244). -/
def fmtIdOf (c : Cfg) : ElemKind → Nat
  | .ac3 => c.fmtIdAc3.toNat
  | .eac3 => c.fmtIdEac3.toNat

/-- FMT_ID_DE[N] (R92). -/
def fmtIdDeOf (c : Cfg) : DataMode → Nat
  | .m16 => c.fmtIdDe16.toNat
  | .m20 => c.fmtIdDe20.toNat
  | .m24 => c.fmtIdDe24.toNat

/-- DE_SYNC_EXPECT[N] (R189). -/
def deSyncExpectOf (c : Cfg) : DataMode → Nat
  | .m16 => c.deSyncExpect16.toNat
  | .m20 => c.deSyncExpect20.toNat
  | .m24 => c.deSyncExpect24.toNat

/-- DE_SYNC_BITS(N) = N - 1 (R101, D14, conflict C5). -/
def deSyncBits (m : DataMode) : Nat := m.bits - 1

/-- DE_KEY_BITS(N) = N (R101, D15). -/
def deKeyBits (m : DataMode) : Nat := m.bits

/-- NUMBLKS[k] for the block-count code k = 0 .. 3 (R99, D10). For a greater code, which only a LAYOUT with a wider
L_NUMBLKSCOD can give, the spec states no count: a free value (assumption log 20, DESIGN CHOICE). -/
def numBlks : Nat → Nat
  | 0 => 1
  | 1 => 2
  | 2 => 3
  | 3 => 6
  | k => (Config.numBlksBeyond k).toNat

/-- Entry `(f, c)` of a table with a row for each `f`. -/
def tableEntry {α : Type} (t : List (List α)) (f c : Nat) : Option α := (t[f]?).bind fun row => row[c]?

/-! ## Registers sized from LAYOUT (R33) -/

/-- The bits of H_BSID: those of L_BSID. -/
def hBsidWidth (c : Cfg) : Nat := c.layout.bsid.width

/-- The bits of H_FSCOD and FS_FSCOD, which hold L_FSCOD or L_EFSCOD by the frame's kind. -/
def hFscodWidth (c : Cfg) : Nat := Nat.max c.layout.fscod.width c.layout.efscod.width

/-- The bits of H_FRMSIZECOD and FS_FRMSIZECOD: those of L_FRMSIZECOD. -/
def hFrmsizecodWidth (c : Cfg) : Nat := c.layout.frmsizecod.width

/-- The bits of H_SUBSTREAMID: those of L_SUBSTREAMID. -/
def hSubstreamidWidth (c : Cfg) : Nat := c.layout.substreamid.width

/-- What a register of `width` bits holds after a write of `v`. -/
def fitWidth (width v : Nat) : Nat := v % 2 ^ width

/-! ## The register file (R21) -/

/-- The registers of R23 to R39, by the spec's names. -/
inductive Reg where
  | cfgAlt | cfgStreamnum | cfgCw | status | errcode | errinfo | warnCount | esPos
  | esLen | pcmPos | pcmLen | burstoutLen | payoutLen | outCw | buDepth | buLen
  | buWp | buBp | hValid | hKind | hBsid | hFscod | hFrmsizecod | hFramewords
  | hBlocks | hStrmtyp | hSubstreamid | hByterev | hStart | hStop | hTcseen | frameValid
  | hConsumed | deBitdepth | deFramewords | deFrcode | deKeypresent | deKey | deSyncf | deRevid
  | deSegsize | deProgcfg | dePre0 | dePre1 | dePre2 | dePre3 | deValid | bszSize
  | bszValid | deIndex | fsState | fsWords | fsBlocks | fsBpf | fsNframes | fsFormat
  | fsFscod | fsFrmsizecod | scLocked | scMode | scPc | scPd | scType | scPapos
  | decWords | decBytes | stFinds | stLastpos | stNspace | stSum | stMin | stMax
  | stParchg | stPcchg | stPdchg | stLastpar | stLastpc | stLastpd
deriving DecidableEq, Repr

/-- The number of a register (10_state.md sections 2.1 to 2.10). -/
def Reg.number : Reg → Nat
  | .cfgAlt => 0x00
  | .cfgStreamnum => 0x01
  | .cfgCw => 0x02
  | .status => 0x08
  | .errcode => 0x09
  | .errinfo => 0x0A
  | .warnCount => 0x0B
  | .esPos => 0x10
  | .esLen => 0x11
  | .pcmPos => 0x12
  | .pcmLen => 0x13
  | .burstoutLen => 0x14
  | .payoutLen => 0x15
  | .outCw => 0x16
  | .buDepth => 0x20
  | .buLen => 0x21
  | .buWp => 0x22
  | .buBp => 0x23
  | .hValid => 0x30
  | .hKind => 0x31
  | .hBsid => 0x32
  | .hFscod => 0x33
  | .hFrmsizecod => 0x34
  | .hFramewords => 0x35
  | .hBlocks => 0x36
  | .hStrmtyp => 0x37
  | .hSubstreamid => 0x38
  | .hByterev => 0x39
  | .hStart => 0x3A
  | .hStop => 0x3B
  | .hTcseen => 0x3C
  | .frameValid => 0x3D
  | .hConsumed => 0x3E
  | .deBitdepth => 0x40
  | .deFramewords => 0x41
  | .deFrcode => 0x42
  | .deKeypresent => 0x43
  | .deKey => 0x44
  | .deSyncf => 0x45
  | .deRevid => 0x46
  | .deSegsize => 0x47
  | .deProgcfg => 0x48
  | .dePre0 => 0x49
  | .dePre1 => 0x4A
  | .dePre2 => 0x4B
  | .dePre3 => 0x4C
  | .deValid => 0x4D
  | .bszSize => 0x50
  | .bszValid => 0x51
  | .deIndex => 0x52
  | .fsState => 0x58
  | .fsWords => 0x59
  | .fsBlocks => 0x5A
  | .fsBpf => 0x5B
  | .fsNframes => 0x5C
  | .fsFormat => 0x5D
  | .fsFscod => 0x5E
  | .fsFrmsizecod => 0x5F
  | .scLocked => 0x60
  | .scMode => 0x61
  | .scPc => 0x62
  | .scPd => 0x63
  | .scType => 0x64
  | .scPapos => 0x65
  | .decWords => 0x66
  | .decBytes => 0x67
  | .stFinds => 0x70
  | .stLastpos => 0x71
  | .stNspace => 0x72
  | .stSum => 0x73
  | .stMin => 0x74
  | .stMax => 0x75
  | .stParchg => 0x76
  | .stPcchg => 0x77
  | .stPdchg => 0x78
  | .stLastpar => 0x79
  | .stLastpc => 0x7A
  | .stLastpd => 0x7B

/-- The registers of R23 to R25. -/
def Reg.ofConf : List Reg :=
  [.cfgAlt, .cfgStreamnum, .cfgCw]

/-- The registers of R28, R29. -/
def Reg.ofStat : List Reg :=
  [.status, .errcode, .errinfo, .warnCount]

/-- The registers of R30. -/
def Reg.ofStream : List Reg :=
  [.esPos, .esLen, .pcmPos, .pcmLen, .burstoutLen, .payoutLen, .outCw]

/-- The registers of R31. -/
def Reg.ofBu : List Reg :=
  [.buDepth, .buLen, .buWp, .buBp]

/-- The registers of R32. -/
def Reg.ofHdr : List Reg :=
  [.hValid, .hKind, .hBsid, .hFscod, .hFrmsizecod, .hFramewords, .hBlocks, .hStrmtyp, .hSubstreamid, .hByterev, .hStart,
   .hStop, .hTcseen, .frameValid, .hConsumed]

/-- The registers of R34. -/
def Reg.ofDe : List Reg :=
  [.deBitdepth, .deFramewords, .deFrcode, .deKeypresent, .deKey, .deSyncf, .deRevid, .deSegsize, .deProgcfg, .dePre0,
   .dePre1, .dePre2, .dePre3, .deValid]

/-- The registers of R35. -/
def Reg.ofBsz : List Reg :=
  [.bszSize, .bszValid, .deIndex]

/-- The registers of R36. -/
def Reg.ofFs : List Reg :=
  [.fsState, .fsWords, .fsBlocks, .fsBpf, .fsNframes, .fsFormat, .fsFscod, .fsFrmsizecod]

/-- The registers of R38. -/
def Reg.ofScan : List Reg :=
  [.scLocked, .scMode, .scPc, .scPd, .scType, .scPapos, .decWords, .decBytes]

/-- The registers of R39. -/
def Reg.ofStats : List Reg :=
  [.stFinds, .stLastpos, .stNspace, .stSum, .stMin, .stMax, .stParchg, .stPcchg, .stPdchg, .stLastpar, .stLastpc,
   .stLastpd]

/-- Every register, in the order of its number. -/
def Reg.all : List Reg :=
  List.flatten
    [ofConf, ofStat, ofStream, ofBu, ofHdr, ofDe, ofBsz, ofFs, ofScan, ofStats]

/-- The register a number names; "every number not listed" names none (R42, R304). -/
def Reg.ofNumber (n : Nat) : Option Reg := Reg.all.find? fun r => r.number == n

/-- What a register holds, as a number. -/
def State.regValue (s : State) : Reg → Nat
  | .cfgAlt => ofFlag s.conf.alt
  | .cfgStreamnum => s.conf.streamNum.toNat
  | .cfgCw => s.conf.cw.toNat
  | .status => s.stat.status.toNat
  | .errcode => s.stat.errCode.toNat
  | .errinfo => s.stat.errInfo.toNat
  | .warnCount => s.stat.warnCount
  | .esPos => s.strm.esPos.toNat
  | .esLen => s.strm.esLen.toNat
  | .pcmPos => s.strm.pcmPos.toNat
  | .pcmLen => s.strm.pcmLen.toNat
  | .burstoutLen => s.strm.burstoutLen
  | .payoutLen => s.strm.payoutLen
  | .outCw => s.strm.outCw.toNat
  | .buDepth => modeCode s.bu.depth
  | .buLen => s.bu.len.toNat
  | .buWp => s.bu.wp.toNat
  | .buBp => s.bu.bp.toNat
  | .hValid => ofFlag s.hdr.valid
  | .hKind => s.hdr.kind.code
  | .hBsid => s.hdr.bsid
  | .hFscod => s.hdr.fscod
  | .hFrmsizecod => s.hdr.frmsizecod
  | .hFramewords => s.hdr.frameWords.toNat
  | .hBlocks => s.hdr.blocks.toNat
  | .hStrmtyp => s.hdr.strmtyp.code
  | .hSubstreamid => s.hdr.substreamid
  | .hByterev => ofFlag s.hdr.byterev
  | .hStart => s.hdr.start.toNat
  | .hStop => s.hdr.stop.code
  | .hTcseen => ofFlag s.hdr.tcSeen
  | .frameValid => ofFlag s.hdr.frameValid
  | .hConsumed => s.hdr.consumed
  | .deBitdepth => modeCode s.de.bitDepth
  | .deFramewords => s.de.frameWords.toNat
  | .deFrcode => s.de.frcode.toNat
  | .deKeypresent => ofFlag s.de.keyPresent
  | .deKey => s.de.key.toNat
  | .deSyncf => s.de.syncf.toNat
  | .deRevid => s.de.revid.toNat
  | .deSegsize => s.de.segsize.toNat
  | .deProgcfg => s.de.progcfg.toNat
  | .dePre0 => s.de.pre0.toNat
  | .dePre1 => s.de.pre1.toNat
  | .dePre2 => s.de.pre2.toNat
  | .dePre3 => s.de.pre3.toNat
  | .deValid => ofFlag s.de.valid
  | .bszSize => s.bsz.size.toNat
  | .bszValid => ofFlag s.bsz.valid
  | .deIndex => s.bsz.deIndex
  | .fsState => s.fs.state.code
  | .fsWords => s.fs.words
  | .fsBlocks => s.fs.blocks.toNat
  | .fsBpf => s.fs.bpf.toNat
  | .fsNframes => s.fs.nframes
  | .fsFormat => s.fs.format.code
  | .fsFscod => s.fs.fscod
  | .fsFrmsizecod => s.fs.frmsizecod
  | .scLocked => ofFlag s.sc.locked
  | .scMode => modeCode s.sc.mode
  | .scPc => s.sc.pc.toNat
  | .scPd => s.sc.pd.toNat
  | .scType => s.sc.type.code
  | .scPapos => s.sc.papos.toNat
  | .decWords => s.sc.decWords.toNat
  | .decBytes => s.sc.decBytes.toNat
  | .stFinds => s.st.finds
  | .stLastpos => s.st.lastpos
  | .stNspace => s.st.nspace
  | .stSum => s.st.sum
  | .stMin => s.st.min
  | .stMax => s.st.max
  | .stParchg => s.st.parchg
  | .stPcchg => s.st.pcchg
  | .stPdchg => s.st.pdchg
  | .stLastpar => s.st.lastpar
  | .stLastpc => s.st.lastpc
  | .stLastpd => s.st.lastpd

/-- What CSR.RD returns for a register: its value zero-extended to 32 bits; for a register held as an unbounded natural,
or one that LAYOUT makes wider than 32 bits, its value modulo 2^32 (R303; assumption logs 8 and 9). -/
def State.readReg (s : State) (r : Reg) : Word32 := BitVec.ofNat 32 (s.regValue r)

/-- The six registers marked RW (R21, R306 (b)). -/
def Reg.writable : Reg → Bool
  | .cfgAlt | .cfgStreamnum | .cfgCw | .esPos | .pcmPos | .deIndex => true
  | _ => false

/-- What CSR.WR stores in a writable register (R307); no other register changes. -/
def State.writeReg (s : State) (r : Reg) (b : Word32) : State :=
  match r with
  | .cfgAlt => { s with conf := { s.conf with alt := b.getLsbD 0 } }
  | .cfgStreamnum => { s with conf := { s.conf with streamNum := b.setWidth 3 } }
  | .cfgCw => { s with conf := { s.conf with cw := b.setWidth 6 } }
  | .esPos => { s with strm := { s.strm with esPos := b } }
  | .pcmPos => { s with strm := { s.strm with pcmPos := b } }
  | .deIndex => { s with bsz := { s.bsz with deIndex := b.toNat } }
  | _ => s

end Sys2Proof.Machine
end

