-- ==== Sys2Proof/Machine/Flags.lean ====
section
/-!
DEFINITION. The bits of STATUS (R28 of 10_state.md). F337 has no arithmetic condition codes (R44).
-/

namespace Sys2Proof.Machine

/-- STATUS bit 0, FAULT. -/
def State.faultFlag (s : State) : Bool := s.stat.status.getLsbD 0

/-- STATUS bit 1, WARN. -/
def State.warnFlag (s : State) : Bool := s.stat.status.getLsbD 1

/-- STATUS bit 2, EOF. -/
def State.eofFlag (s : State) : Bool := s.stat.status.getLsbD 2

/-- STATUS with FAULT set: "never cleared except by reset". -/
def statusSetFault (st : BitVec 3) : BitVec 3 := st ||| 1#3

/-- STATUS with WARN set: "never cleared except by reset". -/
def statusSetWarn (st : BitVec 3) : BitVec 3 := st ||| 2#3

/-- STATUS with EOF written: 1 if the operation ended with the Eof condition, 0 otherwise. -/
def statusWriteEof (st : BitVec 3) (eof : Bool) : BitVec 3 := if eof then st ||| 4#3 else st &&& 3#3

/-- `STATUS.EOF <- eof`. -/
def State.setEof (s : State) (eof : Bool) : State :=
  { s with stat := { s.stat with status := statusWriteEof s.stat.status eof } }

end Sys2Proof.Machine
end

