-- ==== Sys2Proof/Machine/Ops.lean ====
section
/-!
DEFINITION. The operations every meaning shares: raising an error (taking F337's only exception, R325 of
60_exceptions.md), what a command does while the fault is latched (R327), the return from a fault, which is reset (R328,
R360), the warning (R331), and the bounds of a memory.

A meaning is a body, a function of the state that answers the state it commits or the reason it does not. The body works
on a copy: what it had changed before it raised is dropped by `finish`, which is R325's "check, then commit".
-/

namespace Sys2Proof.Machine

/-- How an operation ends without committing (R320). -/
inductive Exit where
  /-- `raise K(info)` (R13, R325). -/
  | raised (kind : ErrKind) (info : Nat)
  /-- `refuse(reason)` (R13, R334). -/
  | refused (why : Refusal)
  /-- A fault of the model (assumption log 12). -/
  | faulted (why : Fault)
deriving DecidableEq, Repr

/-- What the body of an operation answers: the committed state, or how it ended. -/
abbrev Run := Except Exit State

/-- `raise K(info)`: FAULT 1, ERRCODE, ERRINFO = info mod 2^32, result 0, "Nothing else changes" (R325). -/
def State.raise (s : State) (kind : ErrKind) (info : Nat) : State :=
  { s with
    stat := { s.stat with
      status := statusSetFault s.stat.status, errCode := kind.code, errInfo := BitVec.ofNat 32 info }
    result := 0 }

/-- `warn K(info)`: WARN 1, WARN_COUNT + 1; the operation goes on (R331). -/
def State.warn (s : State) : State :=
  { s with stat := { s.stat with status := statusSetWarn s.stat.status, warnCount := s.stat.warnCount + 1 } }

/-- A command that does nothing: no register and no memory changes, result 0 (R327). -/
def State.noOp (s : State) : State := { s with result := 0 }

/-- The outcome of an operation issued in state `s` whose body ended so. -/
def finish (s : State) : Run → Host.Outcome State Fault Refusal
  | .ok s' => .next s'
  | .error (.raised kind info) => .next (s.raise kind info)
  | .error (.refused why) => .refused why
  | .error (.faulted why) => .fault why

/-- An operation whose rule has the precondition STATUS.FAULT = 0: while the fault is latched it is a no-op, "a defined
step, not a refusal" (R327); else its body runs. -/
def runOp (s : State) (body : State → Run) : Host.Outcome State Fault Refusal :=
  if s.faultFlag then .next s.noOp else finish s (body s)

/-- An illegal command word raises IllegalOp with info = op (R113), unless the fault is latched (R332). -/
def illegalCommand (s : State) (op : BitVec 8) : Host.Outcome State Fault Refusal :=
  runOp s fun _ => .error (.raised .illegalOp op.toNat)

/-- The reset state, entered by SYS.RESET: every register and the outputs as after power-on; ES, DEFRAME, PCM and their
lengths keep what the host put there; FRAME, FSBUF, DEBUF, BUOUT are "unspecified" and hold nothing (R301, R360, R362;
assumption log 6). The commands the host still has to present and the configuration are no part of it. -/
def State.enterReset (s : State) : State :=
  { State.reset with
    cfg := s.cfg
    port := s.port
    strm := { StreamRegs.reset with esLen := s.strm.esLen, pcmLen := s.strm.pcmLen }
    es := s.es
    deframe := s.deframe
    pcm := s.pcm }

/-- `n` elements from index `a` exist in a memory of `size` elements (R45). -/
def inMemory (a n size : Nat) : Bool := n == 0 || decide (a + n ≤ size)

/-- The first `n` elements of DEBUF exist. -/
def State.debufHolds (s : State) (n : Nat) : Bool := inMemory 0 n s.cfg.debufCap

end Sys2Proof.Machine
end

