-- ==== Sys2Proof/Machine/BitUnpacker.lean ====
section
/-!
DEFINITION. The bit unpacker: BU.INIT, BU.UNPACK, BU.UNKEY, and the two functions `UnpackFn` and `UnkeyFn` that DE.PARSE
shares with them (41_bit_unpacker.md, R130).
-/

namespace Sys2Proof.Machine

/-- The unit's state: the BU_* registers and DEBUF (R130). DE.PARSE runs the unit on a copy of it. -/
structure Unpacker where
  bu    : BuRegs
  debuf : Memory 32
deriving DecidableEq, Repr

/-- The absolute bit position `P = BU_WP * N + BU_BP` (R132). -/
def cursorPos (n : Nat) (bu : BuRegs) : Nat := bu.wp.toNat * n + bu.bp.toNat

/-- The registers with the cursor normalised at position `p` (R132). -/
def setCursor (n p : Nat) (bu : BuRegs) : BuRegs :=
  { bu with wp := BitVec.ofNat 32 (p / n), bp := BitVec.ofNat 5 (p % n) }

/-- `bit(j) = DEBUF[j div N][31 - (j mod N)]` (R100, R133). -/
def streamBit (debuf : Memory 32) (n j : Nat) : Bool := (debuf.read (j / n)).getLsbD (31 - j % n)

/-- `Field(P, nb)`: the bits P .. P + nb - 1 of the stream, most significant first (R133). -/
def fieldAt (debuf : Memory 32) (n p : Nat) : Nat → Nat
  | 0 => 0
  | nb + 1 => 2 * fieldAt debuf n p nb + ofFlag (streamBit debuf n (p + nb))

/-- `UnpackFn(numitems, numbits)`: every item or none (R136). `none` is its error. -/
def unpackFn (m : DataMode) (numitems numbits : Nat) (u : Unpacker) : Option (List Word32 × Unpacker) :=
  let n := m.bits
  let p := cursorPos n u.bu
  if u.bu.len.toNat * n < p + numitems * numbits then none
  else
    some ((List.range numitems).map fun k => BitVec.ofNat 32 (fieldAt u.debuf n (p + k * numbits) numbits),
      { u with bu := setCursor n (p + numitems * numbits) u.bu })

/-- `DEBUF[start + i] <- DEBUF[start + i] ^ v` for the given count of words (R139). -/
def xorWords (debuf : Memory 32) (start : Nat) (v : Container) : Nat → Memory 32
  | 0 => debuf
  | k + 1 => xorWords (debuf.write start (debuf.read start ^^^ v)) (start + 1) v k

/-- `start = ceil(P / N)`: the first word of which no bit has been consumed (R139). -/
def unkeyStart (m : DataMode) (bu : BuRegs) : Nat := ceilDiv (cursorPos m.bits bu) m.bits

/-- `UnkeyFn(key, num_items)`: XORs the key, reduced to N bits and left-justified, into the words from `start` (R102,
R139). `none` is its error. -/
def unkeyFn (m : DataMode) (key numItems : Nat) (u : Unpacker) : Option Unpacker :=
  let start := unkeyStart m u.bu
  if u.bu.len.toNat < start + numItems then none
  else some { u with debuf := xorWords u.debuf start (lj (key % 2 ^ m.bits) m.bits) numItems }

/-- The unit with the first `len` words of DEFRAME in DEBUF and the cursor at 0 (R131, step 0 of R182). -/
def loadUnpacker (s : State) (m : DataMode) (len : Word32) : Unpacker where
  bu := { depth := some m, len := len, wp := 0, bp := 0 }
  debuf := s.debuf.writeList 0 (s.deframe.readList 0 len.toNat)

/-- BU.INIT after the fault test (R131). -/
def buInitBody (depth len : Word32) (s : State) : Run :=
  match depthOf depth.toNat with
  | none => .error (.refused .badBitDepth)
  | some m =>
    if s.cfg.debufCap < len.toNat then .error (.refused .bufferTooLong)
    else
      let u := loadUnpacker s m len
      .ok { s with bu := u.bu, debuf := u.debuf, result := 0 }

/-- BU.INIT (R131). -/
def execBuInit (depth len : Word32) (s : State) : Host.Outcome State Fault Refusal := runOp s (buInitBody depth len)

/-- BU.UNPACK after the fault test (R134, R135). -/
def buUnpackBody (numitems numbits : Word32) (s : State) : Run :=
  match s.bu.depth with
  | none => .error (.refused .unpackerNotInitialised)
  | some m =>
    if numbits.toNat < 1 ∨ 32 < numbits.toNat then .error (.refused .badFieldWidth)
    else if s.cfg.buoutCap < numitems.toNat then .error (.refused .tooManyItems)
    else if s.debufHolds s.bu.len.toNat = false then .error (.faulted (.noSuchElement .debuf))
    else
      match unpackFn m numitems.toNat numbits.toNat { bu := s.bu, debuf := s.debuf } with
      | none => .error (.raised .readError (cursorPos m.bits s.bu))
      | some (out, u) => .ok { s with bu := u.bu, buout := s.buout.writeList 0 out, result := out.headD 0 }

/-- BU.UNPACK (R134). -/
def execBuUnpack (numitems numbits : Word32) (s : State) : Host.Outcome State Fault Refusal :=
  runOp s (buUnpackBody numitems numbits)

/-- BU.UNKEY after the fault test (R138). -/
def buUnkeyBody (key numItems : Word32) (s : State) : Run :=
  match s.bu.depth with
  | none => .error (.refused .unpackerNotInitialised)
  | some m =>
    if s.debufHolds s.bu.len.toNat = false then .error (.faulted (.noSuchElement .debuf))
    else
      match unkeyFn m key.toNat numItems.toNat { bu := s.bu, debuf := s.debuf } with
      | none => .error (.raised .readError (unkeyStart m s.bu))
      | some u => .ok { s with debuf := u.debuf, result := 0 }

/-- BU.UNKEY (R138). -/
def execBuUnkey (key numItems : Word32) (s : State) : Host.Outcome State Fault Refusal := runOp s (buUnkeyBody key numItems)

end Sys2Proof.Machine
end

