-- ==== Sys2Proof/Machine/BurstEncode.lean ====
section
/-!
DEFINITION. Burst assembly: BURST.ENC, BURST.ENCALT, BURST.ENCDE (46_burst_encode.md).
-/

namespace Sys2Proof.Machine

/-- `pc16 = (fmt | (CFG_STREAMNUM << 13)) & 0xFFFF` (R92). -/
def pc16 (s : State) (fmt : Nat) : Nat := (fmt ||| (s.conf.streamNum.toNat <<< Config.streamShift)) &&& 0xFFFF

/-- `Preamble(N, fmt, n)` (R240). -/
def preamble (s : State) (m : DataMode) (fmt n : Nat) : List Container :=
  [lj (paOf s.cfg m) m.bits, lj (pbOf s.cfg m) m.bits, lj (pc16 s fmt) 16, lj (m.bits * n) m.bits]

/-- `[0 repeated n times]`. -/
def zeros (n : Nat) : List Container := List.replicate n 0

/-- The frameset's payload: `[lj(FSBUF[i], 16) for i in 0 .. n-1]` (R241). -/
def setPayload (s : State) (n : Nat) : List Container := (s.fsbuf.readList 0 n).map fun w => lj w.toNat 16

/-- `Append(BURSTOUT, burst)`, BURSTOUT_LEN, OUT_CW, and the burst size as the result (R241, R248, R254). -/
def appendBurst (s : State) (burst : List Container) (outCw : BitVec 6) : State :=
  { s with
    burstout := s.burstout ++ burst
    strm := { s.strm with burstoutLen := s.strm.burstoutLen + s.bsz.size.toNat, outCw := outCw }
    result := s.bsz.size }

/-- The bit length of `n` payload words does not fit the N-bit Pd: `N * n >= 2^N` (R243). -/
def pdOverflows (m : DataMode) (n : Nat) : Bool := decide (2 ^ m.bits ≤ m.bits * n)

/-- The preconditions BURST.ENC and BURST.ENCALT share (R241, R248). -/
def closedSetProblem (s : State) : Option Refusal :=
  if s.fs.state = .accumulating then some .framesetNotClosed
  else if s.bsz.valid = false then some .noBurstSize
  else none

/-- The burst of BURST.ENC (R90, R241). -/
def normalBurst (s : State) : List Container :=
  preamble s .m16 (fmtIdOf s.cfg s.fs.format) s.fs.words ++ setPayload s s.fs.words ++
    zeros (s.bsz.size.toNat - Config.preambleWords - s.fs.words)

/-- BURST.ENC after the fault test (R241 to R244). -/
def burstEncBody (s : State) : Run :=
  match closedSetProblem s with
  | some why => .error (.refused why)
  | none =>
    if s.bsz.size.toNat < Config.preambleWords + s.fs.words then .error (.raised .capacityExceeded s.fs.words)
    else if pdOverflows .m16 s.fs.words then .error (.raised .capacityExceeded s.fs.words)
    else if inMemory 0 s.fs.words s.cfg.fsbufCap = false then .error (.faulted (.noSuchElement .fsbuf))
    else .ok (appendBurst s (normalBurst s) 16)

/-- BURST.ENC (R241). -/
def execBurstEnc (s : State) : Host.Outcome State Fault Refusal := runOp s burstEncBody

/-- The burst of BURST.ENCALT with its boundary at word `t` (R103, R248). -/
def alternateBurst (s : State) (t : Nat) : List Container :=
  zeros (t - s.fs.words - Config.preambleWords) ++ preamble s .m16 (fmtIdOf s.cfg .ac3) s.fs.words ++
    setPayload s s.fs.words ++ zeros (s.bsz.size.toNat - t)

/-- `T = ALT_POINT[FS_FSCOD][FS_FRMSIZECOD]` (R248, R250). -/
def altPointOf (s : State) : Option Nat := tableEntry s.cfg.altPoint s.fs.fscod s.fs.frmsizecod

/-- BURST.ENCALT after the fault test (R248 to R250). -/
def burstEncaltBody (s : State) : Run :=
  match closedSetProblem s with
  | some why => .error (.refused why)
  | none =>
    if s.fs.format ≠ .ac3 then .error (.raised .configError 2)
    else
      match altPointOf s with
      | none => .error (.faulted .noTableEntry)
      | some t =>
        if s.bsz.size.toNat < t ∨ t < Config.preambleWords + s.fs.words then
          .error (.raised .capacityExceeded s.fs.words)
        else if pdOverflows .m16 s.fs.words then .error (.raised .capacityExceeded s.fs.words)
        else if inMemory 0 s.fs.words s.cfg.fsbufCap = false then .error (.faulted (.noSuchElement .fsbuf))
        else .ok (appendBurst s (alternateBurst s t) 16)

/-- BURST.ENCALT (R248). -/
def execBurstEncalt (s : State) : Host.Outcome State Fault Refusal := runOp s burstEncaltBody

/-- The burst of BURST.ENCDE for a frame of `len` containers (R254 to R256). -/
def dolbyEBurst (s : State) (m : DataMode) (len : Nat) : List Container :=
  preamble s m (fmtIdDeOf s.cfg m) (len - Config.preambleWords) ++
    s.deframe.readList Config.preambleWords (len - Config.preambleWords) ++ zeros (s.bsz.size.toNat - len)

/-- DE_INDEX <- DE_INDEX + 1 (R258). -/
def countDolbyE (s : State) : State := { s with bsz := { s.bsz with deIndex := s.bsz.deIndex + 1 } }

/-- BURST.ENCDE after the fault test (R254, R257). -/
def burstEncdeBody (len depth : Word32) (s : State) : Run :=
  match depthOf depth.toNat with
  | none => .error (.refused .badBitDepth)
  | some m =>
    if s.cfg.debufCap < len.toNat then .error (.refused .bufferTooLong)
    else if s.bsz.valid = false then .error (.refused .noBurstSize)
    else if s.conf.alt then .error (.raised .configError 3)
    else if len.toNat < Config.preambleWords then .error (.raised .readError len.toNat)
    else if s.bsz.size.toNat < len.toNat then .error (.raised .capacityExceeded (len.toNat - Config.preambleWords))
    else if pdOverflows m (len.toNat - Config.preambleWords) then
      .error (.raised .capacityExceeded (len.toNat - Config.preambleWords))
    else .ok (countDolbyE (appendBurst s (dolbyEBurst s m len.toNat) 32))

/-- BURST.ENCDE (R254). -/
def execBurstEncde (len depth : Word32) (s : State) : Host.Outcome State Fault Refusal :=
  runOp s (burstEncdeBody len depth)

end Sys2Proof.Machine
end

