-- ==== Sys2Proof/Machine/BurstSize.lean ====
section
/-!
DEFINITION. The burst-size calculator: BSZ.SIZE (44_burst_size.md).
-/

namespace Sys2Proof.Machine

/-- The Dolby E branch of `SizeFor` (R202, R203). -/
def sizeForDolbyE (c : Cfg) (frc i : Nat) : Except Exit Word32 :=
  if frc = c.frc2997 then .ok (BitVec.ofNat 32 (Config.seq2997.getD i 0))
  else if c.deFrcodes.contains frc then
    match c.bsDe.lookup frc with
    | some size => .ok size
    | none => .error (.faulted .noTableEntry)
  else .error (.raised .configError frc)

/-- `SizeFor(format, frc, i)`, for i in 0 .. 4 (R202, R203). -/
def sizeFor (c : Cfg) (format frc i : Nat) : Except Exit Word32 :=
  match Format.ofCode format with
  | some .ac3 => .ok c.bsAc3
  | some .eac3 => .ok c.bsEac3
  | some .dolbye => sizeForDolbyE c frc i
  | some .unknown => .error (.raised .configError (0x100 ||| (format &&& 0xFF)))
  | none => .error (.raised .configError (0x100 ||| (format &&& 0xFF)))

/-- BSZ.SIZE after the fault test (R201). -/
def bszSizeBody (format frc frameIndex : Word32) (s : State) : Run :=
  match sizeFor s.cfg format.toNat frc.toNat (frameIndex.toNat % 5) with
  | .error e => .error e
  | .ok size => .ok { s with bsz := { s.bsz with size := size, valid := true }, result := size }

/-- BSZ.SIZE (R201). -/
def execBszSize (format frc frameIndex : Word32) (s : State) : Host.Outcome State Fault Refusal :=
  runOp s (bszSizeBody format frc frameIndex)

end Sys2Proof.Machine
end

