-- ==== Sys2Proof/Machine/DolbyE.lean ====
section
/-!
DEFINITION. The Dolby E header decoder: DE.PARSE (43_dolby_e_header.md).
-/

namespace Sys2Proof.Machine

/-- The fields the sequence of R182 extracts, as right-justified numbers. -/
structure DeFields where
  pre   : List Word32
  syncf : Word32
  kp    : Word32
  key   : Word32
  rev   : Word32
  seg   : Word32
  prog  : Word32
  frc   : Word32
deriving DecidableEq, Repr

/-- `U(n, w)`: UnpackFn; an error is ReadError with the position at which the step started (R182, R188). -/
def deUnpack (m : DataMode) (items width : Nat) (u : Unpacker) : Except Exit (List Word32 × Unpacker) :=
  match unpackFn m items width u with
  | some r => .ok r
  | none => .error (.raised .readError (cursorPos m.bits u.bu))

/-- `U(1, w)[0]` (R182). -/
def deField (m : DataMode) (width : Nat) (u : Unpacker) : Except Exit (Word32 × Unpacker) :=
  match deUnpack m 1 width u with
  | .ok (out, u') => .ok (out.headD 0, u')
  | .error e => .error e

/-- `U(1, w)[0]` if the key is present, else 0 and no step (steps 4 of R182, R186). -/
def deFieldIf (present : Bool) (m : DataMode) (width : Nat) (u : Unpacker) : Except Exit (Word32 × Unpacker) :=
  if present then deField m width u else .ok (0, u)

/-- `K(k, n)` if the key is present, else no step; an error is ReadError with the position (R182, R186, R188). -/
def deUnkeyIf (present : Bool) (m : DataMode) (key items : Nat) (u : Unpacker) : Except Exit Unpacker :=
  if present then
    match unkeyFn m key items u with
    | some u' => .ok u'
    | none => .error (.raised .readError (cursorPos m.bits u.bu))
  else .ok u

/-- Steps 1 to 10 of R182. -/
def deSequence (m : DataMode) (u0 : Unpacker) : Except Exit (DeFields × Unpacker) := do
  let (pre, u1) ← deUnpack m Config.dePreItems m.bits u0
  let (syncf, u2) ← deField m (deSyncBits m) u1
  let (kp, u3) ← deField m Config.deKeyflagBits u2
  let (key, u4) ← deFieldIf (kp == 1) m (deKeyBits m) u3
  let u5 ← deUnkeyIf (kp == 1) m key.toNat Config.deUnkey1Items u4
  let (rev, u6) ← deField m Config.deRevBits u5
  let (seg, u7) ← deField m Config.deSegBits u6
  let u8 ← deUnkeyIf (kp == 1) m key.toNat seg.toNat u7
  let (prog, u9) ← deField m Config.deProgBits u8
  let (frc, u10) ← deField m Config.deFrBits u9
  return ({ pre, syncf, kp, key, rev, seg, prog, frc }, u10)

/-- The DE_* registers the commit of R182 writes. -/
def deRegsOf (m : DataMode) (len : Word32) (f : DeFields) : DeRegs where
  bitDepth := some m
  frameWords := len
  frcode := f.frc.setWidth 4
  keyPresent := f.kp == 1
  key := f.key.setWidth 24
  syncf := f.syncf.setWidth 24
  revid := f.rev.setWidth 4
  segsize := f.seg.setWidth 10
  progcfg := f.prog.setWidth 6
  pre0 := (f.pre.getD 0 0).setWidth 24
  pre1 := (f.pre.getD 1 0).setWidth 24
  pre2 := (f.pre.getD 2 0).setWidth 24
  pre3 := (f.pre.getD 3 0).setWidth 24
  valid := true

/-- DolbyESyncWarning when the sync field is not the expected one, after the commit (R189). -/
def deWarn (m : DataMode) (f : DeFields) (s : State) : State :=
  if f.syncf.toNat = deSyncExpectOf s.cfg m then s else s.warn

/-- DE.PARSE after the fault test (R181, R182): the sequence runs on a copy and commits at the end (R188). -/
def deParseBody (len depth : Word32) (s : State) : Run :=
  match depthOf depth.toNat with
  | none => .error (.refused .badBitDepth)
  | some m =>
    if s.cfg.debufCap < len.toNat then .error (.refused .bufferTooLong)
    else
      match deSequence m (loadUnpacker s m len) with
      | .error e => .error e
      | .ok (f, u) =>
        .ok (deWarn m f { s with bu := u.bu, debuf := u.debuf, de := deRegsOf m len f, result := f.frc })

/-- DE.PARSE (R181). -/
def execDeParse (len depth : Word32) (s : State) : Host.Outcome State Fault Refusal := runOp s (deParseBody len depth)

end Sys2Proof.Machine
end

