-- ==== Sys2Proof/Machine/FrameHeader.lean ====
section
/-!
DEFINITION. The frame-header decoder: HDR.PARSE and HDR.PEEK (42_frame_header.md).
-/

namespace Sys2Proof.Machine

/-- `ESWord(p) = (ES[p] << 8) | ES[p+1]` (R60). -/
def esWord (es : Memory 8) (p : Nat) : Word16 := es.read p ++ es.read (p + 1)

/-- What the first word of a record announces (R95). -/
inductive WordClass where
  | tc | audio | audioRev | none
deriving DecidableEq, Repr

/-- `Classify(w)` (R95). -/
def classify (c : Cfg) (w : Word16) : WordClass :=
  if w = c.tcSync ∨ w = swap16 c.tcSync then .tc
  else if w = c.ac3Sync then .audio
  else if w = swap16 c.ac3Sync then .audioRev
  else .none

/-- `Norm(rev, w)` (R61, R154). -/
def norm (rev : Bool) (w : Word16) : Word16 := if rev then swap16 w else w

/-- `n` normalised words of the elementary stream from byte offset `p`. -/
def esWords (es : Memory 8) (rev : Bool) (p n : Nat) : List Word16 :=
  (List.range n).map fun i => norm rev (esWord es (p + 2 * i))

/-- A decoded header (R159). -/
structure Header where
  kind        : ElemKind
  bsid        : Nat
  fscod       : Nat
  frmsizecod  : Nat
  frameWords  : Nat
  blocks      : Nat
  strmtyp     : StreamType
  substreamid : Nat
  byterev     : Bool
deriving DecidableEq, Repr

/-- The value of one range of bits in the header words; a word behind h3, which no well-formed LAYOUT names, reads as 0
(assumption log 13, DESIGN CHOICE). -/
def rangeValue (h : List Word16) (r : BitRange) : Nat := bits r.hi r.lo (h.getD r.word 0).toNat

/-- `L_X(h)`: the value of a LAYOUT entry in the header words, its ranges put together (R11, R97, R159). -/
def layoutField (f : FieldPos) (h : List Word16) : Nat :=
  f.ranges.foldl (fun v r => v * 2 ^ r.width + rangeValue h r) 0

/-- `KindOf(bsid)` (R98, R161). -/
def kindOf (bsid : Nat) : Except Exit ElemKind :=
  if bsid ≤ Config.bsidAc3Max then .ok .ac3
  else if Config.bsidEac3Min ≤ bsid ∧ bsid ≤ Config.bsidEac3Max then .ok .eac3
  else .error (.raised .invalidBsid bsid)

/-- `Ac3Size(f, c)` (R162). -/
def ac3Size (c : Cfg) (fscod frmsizecod : Nat) : Except Exit Nat :=
  if c.nFscod ≤ fscod then .error (.raised .invalidSampleRate fscod)
  else if c.nFrmsizecod ≤ frmsizecod then .error (.raised .invalidDataRate frmsizecod)
  else
    match tableEntry c.ac3FrameWords fscod frmsizecod with
    | some w => .ok w.toNat
    | none => .error (.faulted .noTableEntry)

/-- `StreamTypeOf(r)` (R99, R164). -/
def streamTypeOf (c : Cfg) (r : Nat) : StreamType :=
  if r = c.stIndep then .indep
  else if r = c.stDep then .dep
  else if r = c.stTrans then .trans
  else .other

/-- The AC-3 half of `DecodeHeader` (R159, R162, R165). -/
def decodeAc3 (c : Cfg) (h : List Word16) (rev : Bool) (bsid : Nat) : Except Exit Header :=
  let f := layoutField c.layout.fscod h
  let k := layoutField c.layout.frmsizecod h
  match ac3Size c f k with
  | .error e => .error e
  | .ok fw =>
    .ok { kind := .ac3, bsid := bsid, fscod := f, frmsizecod := k, frameWords := fw, blocks := 6, strmtyp := .indep,
          substreamid := 0, byterev := rev }

/-- The E-AC-3 half of `DecodeHeader` (R159, R163, R164). -/
def decodeEac3 (c : Cfg) (h : List Word16) (rev : Bool) (bsid : Nat) : Header :=
  let f := layoutField c.layout.efscod h
  { kind := .eac3, bsid := bsid, fscod := f, frmsizecod := 0
    frameWords := layoutField c.layout.frmsiz h + c.eac3FrmsizBias
    blocks := if f = c.fscodForce6 then 6 else numBlks (layoutField c.layout.numblkscod h)
    strmtyp := streamTypeOf c (layoutField c.layout.strmtyp h)
    substreamid := layoutField c.layout.substreamid h, byterev := rev }

/-- A frame shorter than its header (R166). -/
def checkFrameWords (hd : Header) : Except Exit Header :=
  if hd.frameWords < Config.hdrWords then .error (.raised .invalidDataRate hd.frameWords) else .ok hd

/-- `DecodeHeader(h, rev)`, which reads CFG_ALT and Cfg and nothing else of the state (R159, R160). -/
def decodeHeader (c : Cfg) (alt : Bool) (h : List Word16) (rev : Bool) : Except Exit Header :=
  let bsid := layoutField c.layout.bsid h
  match kindOf bsid with
  | .error e => .error e
  | .ok .ac3 =>
    match decodeAc3 c h rev bsid with
    | .error e => .error e
    | .ok hd => checkFrameWords hd
  | .ok .eac3 => if alt then .error (.raised .configError 1) else checkFrameWords (decodeEac3 c h rev bsid)

/-- A header that the parse loop decoded: where its sync word stands, and the frame's words (none for HDR.PEEK). -/
structure Found where
  start : Nat
  hdr   : Header
  frame : List Word16
deriving DecidableEq, Repr

/-- The local variables of `ParseLoop` (R154): `fr_seen = 1` exactly when `found` holds a header. -/
structure ParseVars where
  p      : Nat
  tcSeen : Bool
  stop   : StopCode
  found  : Option Found
deriving DecidableEq, Repr

/-- What one pass of the loop answers: go on with another record, leave the loop, or the Eof condition. -/
inductive Pass where
  | again (v : ParseVars)
  | leave (v : ParseVars)
  | eof
deriving DecidableEq, Repr

/-- A timecode record at `v.p` (R154, R156). -/
def passTc (s : State) (v : ParseVars) : Except Exit Pass :=
  if v.tcSeen then .ok (.leave { v with stop := .newslice })
  else if s.strm.esLen.toNat < v.p + 2 * s.cfg.tcRecordWords then .error (.raised .readError v.p)
  else .ok (.again { v with p := v.p + 2 * s.cfg.tcRecordWords, tcSeen := true })

/-- An audio sync at `v.p`, of the polarity `rev` (R154, R157). -/
def passAudio (s : State) (justinfo rev : Bool) (v : ParseVars) : Except Exit Pass :=
  if v.found.isSome then .ok (.leave { v with stop := .newslice })
  else if s.strm.esLen.toNat < v.p + 2 * Config.hdrWords then .error (.raised .readError v.p)
  else
    match decodeHeader s.cfg s.conf.alt (esWords s.es rev v.p Config.hdrWords) rev with
    | .error e => .error e
    | .ok hd =>
      if justinfo then
        .ok (.leave { v with p := v.p + 2 * Config.hdrWords, stop := .hdronly, found := some ⟨v.p, hd, []⟩ })
      else if s.strm.esLen.toNat < v.p + 2 * hd.frameWords then .error (.raised .readError v.p)
      else
        .ok (.again { v with
          p := v.p + 2 * hd.frameWords
          found := some ⟨v.p, hd, esWords s.es rev v.p hd.frameWords⟩ })

/-- One pass of the loop: the availability of the next word (R153), then the record it starts (R154, R155). -/
def parsePass (s : State) (justinfo : Bool) (v : ParseVars) : Except Exit Pass :=
  if v.p = s.strm.esLen.toNat then
    if v.tcSeen || v.found.isSome then .ok (.leave { v with stop := .eos }) else .ok .eof
  else if s.strm.esLen.toNat < v.p + 2 then .error (.raised .readError v.p)
  else
    match classify s.cfg (esWord s.es v.p) with
    | .tc => passTc s v
    | .audio => passAudio s justinfo false v
    | .audioRev => passAudio s justinfo true v
    | .none => .error (.raised .syncError v.p)

/-- `ParseLoop` with a bound on its passes; `none` is the Eof condition. Three passes always leave (R154, R377), so the
answer at bound 0 is never used (`parseLoop_bound` in Laws). -/
def parseLoop (s : State) (justinfo : Bool) : Nat → ParseVars → Except Exit (Option ParseVars)
  | 0, v => .ok (some v)
  | k + 1, v =>
    match parsePass s justinfo v with
    | .error e => .error e
    | .ok .eof => .ok none
    | .ok (.leave v') => .ok (some v')
    | .ok (.again v') => parseLoop s justinfo k v'

/-- The variables at the start of the loop (R154). -/
def parseStart (s : State) : ParseVars where
  p := s.strm.esPos.toNat
  tcSeen := false
  stop := .none
  found := none

/-- The Eof condition of R153 (a). -/
def commitEof (s : State) : State :=
  { s.setEof true with
    hdr := { s.hdr with valid := false, frameValid := false, tcSeen := false, stop := .eos, consumed := 0 }
    result := 0 }

/-- The header registers of R167 for a decoded header, the four sized from LAYOUT in their widths (R33). -/
def hdrRegsOf (c : Cfg) (r : HdrRegs) (f : Found) (frameValid : Bool) : HdrRegs :=
  { r with
    valid := true
    kind := f.hdr.kind
    bsid := fitWidth (hBsidWidth c) f.hdr.bsid
    fscod := fitWidth (hFscodWidth c) f.hdr.fscod
    frmsizecod := fitWidth (hFrmsizecodWidth c) f.hdr.frmsizecod
    frameWords := BitVec.ofNat 16 f.hdr.frameWords
    blocks := BitVec.ofNat 3 f.hdr.blocks
    strmtyp := f.hdr.strmtyp
    substreamid := fitWidth (hSubstreamidWidth c) f.hdr.substreamid
    byterev := f.hdr.byterev
    start := BitVec.ofNat 32 f.start
    frameValid := frameValid }

/-- What every commit of R167 writes: H_CONSUMED, ES_POS, H_TCSEEN, H_STOP, STATUS.EOF <- 0. -/
def commitPosition (s : State) (v : ParseVars) : State :=
  { s.setEof false with
    strm := { s.strm with esPos := BitVec.ofNat 32 v.p }
    hdr := { s.hdr with tcSeen := v.tcSeen, stop := v.stop, consumed := v.p - s.strm.esPos.toNat } }

/-- The commit of R167. The frame fits FRAME by R47; where a Cfg breaks that, the model faults (assumption log 12). -/
def commitParse (s : State) (justinfo : Bool) (v : ParseVars) : Run :=
  let s' := commitPosition s v
  match v.found with
  | none => .ok { s' with hdr := { s'.hdr with valid := false, frameValid := false }, result := 0 }
  | some f =>
    if justinfo then .ok { s' with hdr := hdrRegsOf s.cfg s'.hdr f false, result := 1 }
    else if inMemory 0 f.hdr.frameWords s.cfg.frameCap = false then .error (.faulted (.noSuchElement .frame))
    else .ok { s' with hdr := hdrRegsOf s.cfg s'.hdr f true, frame := s.frame.writeList 0 f.frame, result := 1 }

/-- HDR.PARSE and HDR.PEEK after the fault test (R150, R154, R167). -/
def hdrBody (justinfo : Bool) (s : State) : Run :=
  match parseLoop s justinfo 3 (parseStart s) with
  | .error e => .error e
  | .ok none => .ok (commitEof s)
  | .ok (some v) => commitParse s justinfo v

/-- HDR.PARSE (R151). -/
def execHdrParse (s : State) : Host.Outcome State Fault Refusal := runOp s (hdrBody false)

/-- HDR.PEEK (R152). -/
def execHdrPeek (s : State) : Host.Outcome State Fault Refusal := runOp s (hdrBody true)

end Sys2Proof.Machine
end

