-- ==== Sys2Proof/Machine/Frameset.lean ====
section
/-!
DEFINITION. The frameset accumulator: FS.OFFER, FS.FLUSH, FS.CLEAR (45_frameset.md).
-/

namespace Sys2Proof.Machine

/-- `Qualifies(st, ss)` (R222). -/
def qualifies (st : StreamType) (ss : Nat) : Bool := (st == .indep || st == .trans) && ss == 0

/-- The frame is consumed: "never retained past frameset assembly" (R216, R32). -/
def consumeFrame (h : HdrRegs) : HdrRegs := { h with valid := false, frameValid := false }

/-- The offered frame's block count differs from the set's (R217). -/
def blockCountChanges (s : State) : Bool := decide (0 < s.fs.nframes) && s.hdr.blocks != s.fs.bpf

/-- The short flush and its rewind (R216, R217, R218). -/
def shortFlush (s : State) : State :=
  { s with
    fs := { s.fs with state := .flushedShort }
    strm := { s.strm with esPos := s.hdr.start }
    hdr := consumeFrame s.hdr
    result := BitVec.ofNat 32 FsState.flushedShort.code }

/-- The capacity rule: the frame is accepted only if `4 + FS_WORDS + fw + 4 <= BSZ_SIZE` (R219). -/
def exceedsCapacity (s : State) : Bool :=
  decide (s.bsz.size.toNat < Config.preambleWords + s.fs.words + s.hdr.frameWords.toNat + Config.capGuard)

/-- The set's registers with the first frame's codes latched (R216, R37). -/
def latchFirst (fs : FsRegs) (h : HdrRegs) : FsRegs :=
  if fs.nframes = 0 then
    { fs with bpf := h.blocks, format := h.kind, fscod := h.fscod, frmsizecod := h.frmsizecod }
  else fs

/-- The set's blocks after the frame (R222). -/
def addBlocks (fs : FsRegs) (h : HdrRegs) : BitVec 4 :=
  if qualifies h.strmtyp h.substreamid then fs.blocks + h.blocks.setWidth 4 else fs.blocks

/-- The set's registers after the frame is appended (R216, R221, R223). -/
def appendRegs (fs : FsRegs) (h : HdrRegs) : FsRegs :=
  { latchFirst fs h with
    words := fs.words + h.frameWords.toNat
    nframes := fs.nframes + 1
    blocks := addBlocks fs h
    state := if Config.setBlocks ≤ (addBlocks fs h).toNat then .complete else fs.state }

/-- The frame is appended (R216, R221). -/
def appendFrame (s : State) : State :=
  let fw := s.hdr.frameWords.toNat
  let fs' := appendRegs s.fs s.hdr
  { s with
    fs := fs'
    fsbuf := s.fsbuf.writeList s.fs.words (s.frame.readList 0 fw)
    hdr := consumeFrame s.hdr
    result := BitVec.ofNat 32 fs'.state.code }

/-- FS.OFFER after the fault test (R216). The two bounds hold by R47, R48 and R221. -/
def fsOfferBody (s : State) : Run :=
  if s.fs.state ≠ .accumulating then .error (.refused .framesetClosed)
  else if (s.hdr.valid && s.hdr.frameValid) = false then .error (.refused .noFrame)
  else if s.bsz.valid = false then .error (.refused .noBurstSize)
  else if blockCountChanges s then .ok (shortFlush s)
  else if exceedsCapacity s then .error (.raised .capacityExceeded (s.fs.words + s.hdr.frameWords.toNat))
  else if inMemory 0 s.hdr.frameWords.toNat s.cfg.frameCap = false then .error (.faulted (.noSuchElement .frame))
  else if inMemory s.fs.words s.hdr.frameWords.toNat s.cfg.fsbufCap = false then
    .error (.faulted (.noSuchElement .fsbuf))
  else .ok (appendFrame s)

/-- FS.OFFER (R216). -/
def execFsOffer (s : State) : Host.Outcome State Fault Refusal := runOp s fsOfferBody

/-- The state FS.FLUSH leaves the set in (R225). -/
def flushedState (fs : FsRegs) : FsState :=
  if fs.state = .accumulating ∧ 0 < fs.nframes then .flushedShort else fs.state

/-- FS.FLUSH after the fault test (R225). -/
def fsFlushBody (s : State) : Run :=
  .ok { s with fs := { s.fs with state := flushedState s.fs }, result := BitVec.ofNat 32 (flushedState s.fs).code }

/-- FS.FLUSH (R225). -/
def execFsFlush (s : State) : Host.Outcome State Fault Refusal := runOp s fsFlushBody

/-- FS.CLEAR after the fault test: all FS registers 0, FSBUF not written (R227). -/
def fsClearBody (s : State) : Run := .ok { s with fs := FsRegs.reset, result := 0 }

/-- FS.CLEAR (R227). -/
def execFsClear (s : State) : Host.Outcome State Fault Refusal := runOp s fsClearBody

end Sys2Proof.Machine
end

