-- ==== Sys2Proof/Machine/SyncScan.lean ====
section
/-!
DEFINITION. The sync scanner and burst extraction: SCAN.FIND and BURST.DEC (47_sync_scan_decode.md).
-/

namespace Sys2Proof.Machine

/-- `Hyp(c)`: the first of 16, 20, 24 under which the container matches Pa (R91, R270). -/
def hyp (cfg : Cfg) (c : Container) : Option DataMode :=
  if rj c 16 = paOf cfg .m16 then some .m16
  else if rj c 20 = paOf cfg .m20 then some .m20
  else if rj c 24 = paOf cfg .m24 then some .m24
  else none

/-- How the scan ends: the end of the stream, a truncated preamble at `p`, or a confirmed lock at `p` (R271). -/
inductive ScanEnd where
  | eof
  | truncated (p : Nat)
  | lock (p : Nat) (h : DataMode)
deriving DecidableEq, Repr

/-- The loop of R271 from word `p`, with the count of words left, `PCM_LEN - p` (R274, R275). -/
def scanLoop (cfg : Cfg) (pcm : Memory 32) (len : Nat) : Nat → Nat → ScanEnd
  | 0, _ => .eof
  | k + 1, p =>
    match hyp cfg (pcm.read p) with
    | none => scanLoop cfg pcm len k (p + 1)
    | some h =>
      if len ≤ p + 1 then .eof
      else if rj (pcm.read (p + 1)) h.bits ≠ pbOf cfg h then scanLoop cfg pcm len k (p + 1)
      else if len ≤ p + 3 then .truncated p
      else .lock p h

/-- `ClassifyPc(pc, M)` (R94). -/
def classifyPc (cfg : Cfg) (pc : Nat) (m : DataMode) : Format :=
  let t := pc &&& Config.pcTypeMask
  if t = fmtIdOf cfg .ac3 &&& Config.pcTypeMask then .ac3
  else if t = fmtIdOf cfg .eac3 &&& Config.pcTypeMask then .eac3
  else if t = fmtIdDeOf cfg m &&& Config.pcTypeMask then .dolbye
  else .unknown

/-- The spacing statistics of a find at `p` (R277). -/
def statsSpacing (st : StatsRegs) (p : Nat) : StatsRegs :=
  if st.lastpos < p then
    let d := p - st.lastpos
    { st with
      nspace := st.nspace + 1
      sum := st.sum + d
      min := if st.nspace = 0 then d else Nat.min st.min d
      max := if st.nspace = 0 then d else Nat.max st.max d }
  else st

/-- The change counters of a find (R277). -/
def statsChanges (st : StatsRegs) (p pc pd : Nat) : StatsRegs :=
  { st with
    parchg := if p % 2 ≠ st.lastpar then st.parchg + 1 else st.parchg
    pcchg := if pc ≠ st.lastpc then st.pcchg + 1 else st.pcchg
    pdchg := if pd ≠ st.lastpd then st.pdchg + 1 else st.pdchg }

/-- `StatsUpdate(p, pc, pd)` (R277). -/
def statsUpdate (st : StatsRegs) (p pc pd : Nat) : StatsRegs :=
  let st' := if 0 < st.finds then statsChanges (statsSpacing st p) p pc pd else st
  { st' with lastpos := p, lastpar := p % 2, lastpc := pc, lastpd := pd, finds := st.finds + 1 }

/-- End of stream (R272). -/
def scanEof (s : State) : State :=
  { s.setEof true with
    strm := { s.strm with pcmPos := s.strm.pcmLen }
    sc := { s.sc with locked := false }
    result := 0 }

/-- The confirmed lock at `p` under hypothesis `h` (R271, R276, R277). -/
def scanLock (s : State) (p : Nat) (h : DataMode) : State :=
  let pc := rj (s.pcm.read (p + 2)) 16
  let pd := rj (s.pcm.read (p + 3)) h.bits
  { s.setEof false with
    strm := { s.strm with pcmPos := BitVec.ofNat 32 (p + 4) }
    sc := { s.sc with
      locked := true
      mode := some h
      pc := BitVec.ofNat 16 pc
      pd := BitVec.ofNat 24 pd
      type := classifyPc s.cfg pc h
      papos := BitVec.ofNat 32 p }
    st := statsUpdate s.st p pc pd
    result := 1 }

/-- SCAN.FIND after the fault test (R271). -/
def scanFindBody (s : State) : Run :=
  let p := s.strm.pcmPos.toNat
  let len := s.strm.pcmLen.toNat
  match scanLoop s.cfg s.pcm len (len - p) p with
  | .eof => .ok (scanEof s)
  | .truncated p' => .error (.raised .readError p')
  | .lock p' h => .ok (scanLock s p' h)

/-- SCAN.FIND (R271). -/
def execScanFind (s : State) : Host.Outcome State Fault Refusal := runOp s scanFindBody

/-- `nw = ceil(SC_PD / SC_MODE)` (R281). -/
def extractWords (sc : ScanRegs) : Nat := ceilDiv sc.pd.toNat (modeCode sc.mode)

/-- The extraction of `nw` containers (R280, R283). -/
def extractBurst (s : State) (nw : Nat) : State :=
  { s with
    payout := s.payout ++ s.pcm.readList s.strm.pcmPos.toNat nw
    strm := { s.strm with
      payoutLen := s.strm.payoutLen + nw
      pcmPos := BitVec.ofNat 32 (s.strm.pcmPos.toNat + nw) }
    sc := { s.sc with
      decWords := BitVec.ofNat 32 nw
      decBytes := BitVec.ofNat 32 (nw * (s.conf.cw.toNat / 8))
      locked := false }
    result := BitVec.ofNat 32 nw }

/-- BURST.DEC after the fault test (R280 to R283). -/
def burstDecBody (s : State) : Run :=
  if s.sc.locked = false then .error (.refused .noLocatedPreamble)
  else if s.strm.pcmLen.toNat < s.strm.pcmPos.toNat + extractWords s.sc then
    .error (.raised .readError s.strm.pcmPos.toNat)
  else .ok (extractBurst s (extractWords s.sc))

/-- BURST.DEC (R280). -/
def execBurstDec (s : State) : Host.Outcome State Fault Refusal := runOp s burstDecBody

end Sys2Proof.Machine
end

