-- ==== Sys2Proof/Machine/System.lean ====
section
/-!
DEFINITION. SYS.RESET, CSR.RD, CSR.WR (48_system.md).
-/

namespace Sys2Proof.Machine

/-- SYS.RESET: the reset state, from every state, faulted or not (R301, R302). -/
def execSysReset (s : State) : Host.Outcome State Fault Refusal := .next s.enterReset

/-- info of an unknown register number: `0x10000 | (a & 0xFFFF)` (R304). -/
def unknownRegInfo (reg : Word32) : Nat := 0x10000 ||| (reg.toNat &&& 0xFFFF)

/-- info of a write to a register not marked RW: `0x20000 | a` (R306 (b)). -/
def readOnlyRegInfo (reg : Word32) : Nat := 0x20000 ||| reg.toNat

/-- CSR.RD: the register's value; it works while the fault is latched, where an unknown number reads 0 (R303, R304). -/
def execCsrRd (reg : Word32) (s : State) : Host.Outcome State Fault Refusal :=
  match Reg.ofNumber reg.toNat with
  | some r => .next { s with result := s.readReg r }
  | none => runOp s fun _ => .error (.raised .illegalOp (unknownRegInfo reg))

/-- A CFG_CW value F337 takes (R25, R306 (c)). -/
def cwAdmitted (b : Word32) : Bool := b == 16 || b == 24 || b == 32

/-- The tests (c), (d), (e) of R306 on the value for a writable register. -/
def writeProblem (s : State) (r : Reg) (b : Word32) : Option Exit :=
  if r = .cfgCw ∧ cwAdmitted b = false then some (.raised .configError b.toNat)
  else if r = .esPos ∧ (b.toNat % 2 = 1 ∨ s.strm.esLen.toNat < b.toNat) then some (.refused .badSeek)
  else if r = .pcmPos ∧ s.strm.pcmLen.toNat < b.toNat then some (.refused .badSeek)
  else none

/-- CSR.WR after the fault test (R305 to R307). -/
def csrWrBody (reg value : Word32) (s : State) : Run :=
  match Reg.ofNumber reg.toNat with
  | none => .error (.raised .illegalOp (unknownRegInfo reg))
  | some r =>
    if r.writable = false then .error (.raised .illegalOp (readOnlyRegInfo reg))
    else
      match writeProblem s r value with
      | some e => .error e
      | none => .ok { s.writeReg r value with result := 0 }

/-- CSR.WR (R305). -/
def execCsrWr (reg value : Word32) (s : State) : Host.Outcome State Fault Refusal := runOp s (csrWrBody reg value)

end Sys2Proof.Machine
end

