-- ==== Sys2Proof/Machine/Dispatch.lean ====
section
/-!
DEFINITION. The dispatch of the operations: one arm for each row of the opcode table (R111 of 30_encoding.md).
-/

namespace Sys2Proof.Machine

def exec (i : Instr) (s : State) : Host.Outcome State Fault Refusal :=
  match i with
  | .sysReset => Sys2Proof.Machine.execSysReset s
  | .csrRd reg => Sys2Proof.Machine.execCsrRd reg s
  | .csrWr reg value => Sys2Proof.Machine.execCsrWr reg value s
  | .buInit depth len => Sys2Proof.Machine.execBuInit depth len s
  | .buUnpack numitems numbits => Sys2Proof.Machine.execBuUnpack numitems numbits s
  | .buUnkey key numItems => Sys2Proof.Machine.execBuUnkey key numItems s
  | .deParse len depth => Sys2Proof.Machine.execDeParse len depth s
  | .hdrParse => Sys2Proof.Machine.execHdrParse s
  | .hdrPeek => Sys2Proof.Machine.execHdrPeek s
  | .bszSize format frc frameIndex => Sys2Proof.Machine.execBszSize format frc frameIndex s
  | .fsOffer => Sys2Proof.Machine.execFsOffer s
  | .fsFlush => Sys2Proof.Machine.execFsFlush s
  | .fsClear => Sys2Proof.Machine.execFsClear s
  | .burstEnc => Sys2Proof.Machine.execBurstEnc s
  | .burstEncalt => Sys2Proof.Machine.execBurstEncalt s
  | .burstEncde len depth => Sys2Proof.Machine.execBurstEncde len depth s
  | .scanFind => Sys2Proof.Machine.execScanFind s
  | .burstDec => Sys2Proof.Machine.execBurstDec s

end Sys2Proof.Machine
end

