-- ==== Sys2Proof/Machine/HostPort.lean ====
section
/-!
DEFINITION. The host's side of the machine (R7, R8 of 00_scope.md; R73 of 20_memory.md): how a command word is taken from
the command port, and the host's moves between operations, which are no steps of F337 (assumption log 1, log 14).
-/

namespace Sys2Proof.Machine

/-- The command the host presents next, and the machine with it taken from the port; `none` when there is none. -/
def State.takeCommand (s : State) : Option (CmdWord × State) :=
  match s.port with
  | [] => none
  | w :: rest => some (w, { s with port := rest })

/-- The machine with `w` as the command it takes next; what stood in its place is gone. -/
def State.presentCommand (s : State) (w : CmdWord) : State := { s with port := w :: s.port.tail }

/-- The host presents the elementary stream: ES and ES_LEN (R30, R46). -/
def State.loadEs (s : State) (bytes : List Byte) : State :=
  { s with es := Memory.ofList bytes, strm := { s.strm with esLen := BitVec.ofNat 32 bytes.length } }

/-- The host presents a Dolby E frame in DEFRAME (R49). -/
def State.loadDeframe (s : State) (words : List Container) : State := { s with deframe := Memory.ofList words }

/-- The host presents the decode input: PCM and PCM_LEN (R30, R52). -/
def State.loadPcm (s : State) (words : List Container) : State :=
  { s with pcm := Memory.ofList words, strm := { s.strm with pcmLen := BitVec.ofNat 32 words.length } }

end Sys2Proof.Machine
end

