-- ==== Sys2Proof/Machine/Step.lean ====
section
/-!
DEFINITION. One step of F337: one operation, issued by the host, executed to completion (R6 of 00_scope.md).
-/

namespace Sys2Proof.Machine

/-- The machine executes a command word: the operation it decodes to, or the error of an illegal one (R113). -/
def runCommand (w : CmdWord) (s : State) : Host.Outcome State Fault Refusal :=
  match decode w with
  | .ok i => exec i s
  | .error (.illegalOp op) => illegalCommand s op

/-- One step. With no command on the port F337 waits: nothing changes (assumption log 2). -/
def step (s : State) : Host.Outcome State Fault Refusal :=
  match s.takeCommand with
  | none => .next s
  | some (w, s') => runCommand w s'

/-- The machine with the word of spec/opcode_table.json on the command port, so that the next step runs it (log 1). -/
def State.withFetchWord (s : State) (nbits w : Nat) : State := s.presentCommand (tableCmdWord nbits w)

end Sys2Proof.Machine
end

