-- ==== Sys2Proof/Safety.lean ====
section
/-!
DEFINITION. What counts as a safe run, and the properties of a state that every step keeps, in the terms claims use.

Each property is one the spec states or derives for the state "after every operation": the canonical form of the
memories, the bounds of the cursors (R306 of 48_system.md), the cursor invariant of the bit unpacker (R132), the widths of the
registers sized from LAYOUT (R33), what a valid header can hold (R47, R161 to R166), the bounds of a burst size (R202, R48),
the accumulator's invariants (R228), the lock (R276), the output lengths (R30), the container width (R25) and the fault latch
(R29).
-/

namespace Sys2Proof

open Sys2Proof.Machine

/-- A step from `s` does not end in a fault of the model. -/
def Safe (s : State) : Prop := ∀ f, step s ≠ .fault f

/-- Every memory has its canonical form. -/
structure MemoriesOk (s : State) : Prop where
  es      : s.es.wf
  frame   : s.frame.wf
  fsbuf   : s.fsbuf.wf
  deframe : s.deframe.wf
  debuf   : s.debuf.wf
  buout   : s.buout.wf
  pcm     : s.pcm.wf

/-- "ES_POS <= ES_LEN, ES_POS even and PCM_POS <= PCM_LEN hold at all times" (R306); the frame of a valid header starts
at such a position too, so the rewind of R218 keeps this. -/
structure CursorsOk (s : State) : Prop where
  esEven    : s.strm.esPos.toNat % 2 = 0
  esBound   : s.strm.esPos.toNat ≤ s.strm.esLen.toNat
  pcmBound  : s.strm.pcmPos.toNat ≤ s.strm.pcmLen.toNat
  startEven : s.hdr.valid = true → s.hdr.start.toNat % 2 = 0
  startIn   : s.hdr.valid = true → s.hdr.start.toNat ≤ s.strm.esLen.toNat

/-- The cursor of an initialised unpacker is normalised and inside the buffer, and the buffer fits DEBUF (R132, R131). -/
structure UnpackerOk (s : State) : Prop where
  normal : ∀ m, s.bu.depth = some m → s.bu.bp.toNat < m.bits
  inside : ∀ m, s.bu.depth = some m → cursorPos m.bits s.bu ≤ s.bu.len.toNat * m.bits
  fits   : s.bu.depth ≠ none → s.bu.len.toNat ≤ s.cfg.debufCap

/-- The block counts a header can announce (R32, R99). -/
abbrev blockCount (n : Nat) : Prop := n = 1 ∨ n = 2 ∨ n = 3 ∨ n = 6

/-- ALT_POINT has an entry for these codes (R250). -/
abbrev altPointDefined (c : Cfg) (fscod frmsizecod : Nat) : Prop := (tableEntry c.altPoint fscod frmsizecod).isSome = true

/-- What the header registers can hold: at all times no more than their widths in LAYOUT (R33), and while H_VALID is 1 what
the decoder can give (R47, R99, R161 to R166). -/
structure HeaderOk (s : State) : Prop where
  bsidWidth        : s.hdr.bsid < 2 ^ hBsidWidth s.cfg
  fscodWidth       : s.hdr.fscod < 2 ^ hFscodWidth s.cfg
  frmsizecodWidth  : s.hdr.frmsizecod < 2 ^ hFrmsizecodWidth s.cfg
  substreamidWidth : s.hdr.substreamid < 2 ^ hSubstreamidWidth s.cfg
  frame    : s.hdr.frameValid = true → s.hdr.valid = true
  fits     : s.hdr.valid = true → s.hdr.frameWords.toNat ≤ s.cfg.frameCap
  whole    : s.hdr.valid = true → Config.hdrWords ≤ s.hdr.frameWords.toNat
  blocks   : s.hdr.valid = true → blockCount s.hdr.blocks.toNat
  ac3      : s.hdr.valid = true → s.hdr.kind = .ac3 →
    s.hdr.blocks.toNat = 6 ∧ s.hdr.strmtyp = .indep ∧ s.hdr.substreamid = 0
  ac3Codes : s.hdr.valid = true → s.hdr.kind = .ac3 →
    altPointDefined s.cfg s.hdr.fscod s.hdr.frmsizecod

/-- A burst size holds a preamble and the guarded words, and FSBUF holds a burst (R202, R48). -/
structure BurstSizeOk (s : State) : Prop where
  least : s.bsz.valid = true → 9 ≤ s.bsz.size.toNat
  fits  : s.bsz.valid = true → s.bsz.size.toNat ≤ s.cfg.fsbufCap

/-- The accumulator's invariants (R228), with the widths of R33, the bound of R221 on FSBUF and the table entry of R250. -/
structure FramesetOk (s : State) : Prop where
  fscodWidth      : s.fs.fscod < 2 ^ hFscodWidth s.cfg
  frmsizecodWidth : s.fs.frmsizecod < 2 ^ hFrmsizecodWidth s.cfg
  most     : s.fs.blocks.toNat ≤ 6
  complete : s.fs.blocks.toNat = 6 ↔ s.fs.state = .complete
  short    : s.fs.state = .flushedShort → 0 < s.fs.nframes ∧ s.fs.blocks.toNat < 6
  none     : s.fs.nframes = 0 → s.fs.words = 0 ∧ s.fs.blocks.toNat = 0
  perFrame : 0 < s.fs.nframes → blockCount s.fs.bpf.toNat
  multiple : 0 < s.fs.nframes → s.fs.blocks.toNat % s.fs.bpf.toNat = 0
  least    : Config.hdrWords * s.fs.nframes ≤ s.fs.words
  fits     : 0 < s.fs.nframes → Config.preambleWords + s.fs.words + Config.capGuard ≤ s.cfg.fsbufCap
  ac3Codes : 0 < s.fs.nframes → s.fs.format = .ac3 →
    altPointDefined s.cfg s.fs.fscod s.fs.frmsizecod

/-- A lock has a mode, a Pd of that many bits, and four preamble words inside PCM (R271, R276). -/
structure ScannerOk (s : State) : Prop where
  mode : s.sc.locked = true → s.sc.mode ≠ none
  pd   : ∀ m, s.sc.locked = true → s.sc.mode = some m → s.sc.pd.toNat < 2 ^ m.bits
  pa   : s.sc.locked = true → s.sc.papos.toNat + 4 ≤ s.strm.pcmLen.toNat

/-- The length registers count what was appended (R30, R51). -/
structure OutputsOk (s : State) : Prop where
  burstout : s.strm.burstoutLen = s.burstout.length
  payout   : s.strm.payoutLen = s.payout.length

/-- CFG_CW is 16, 24 or 32 (R25). -/
abbrev ConfOk (s : State) : Prop := s.conf.cw.toNat = 16 ∨ s.conf.cw.toNat = 24 ∨ s.conf.cw.toNat = 32

/-- ERRCODE is "0 when FAULT = 0" (R29), is the code of a kind that is raised when FAULT = 1 (R321, R324), and WARN is set
exactly when a warning was counted (R331). -/
structure LatchOk (s : State) : Prop where
  clear : s.faultFlag = false → s.stat.errCode = 0 ∧ s.stat.errInfo = 0
  codes : s.faultFlag = true →
    ∃ k : ErrKind, k ≠ .eof ∧ k ≠ .unsupportedContainer ∧ s.stat.errCode = k.code
  warn  : s.warnFlag = true ↔ 0 < s.stat.warnCount

/-- All of the above, under a configuration that meets the spec's conditions. -/
structure MachineOk (s : State) : Prop where
  cfg       : s.cfg.wellFormed = true
  memories  : MemoriesOk s
  cursors   : CursorsOk s
  unpacker  : UnpackerOk s
  header    : HeaderOk s
  burstSize : BurstSizeOk s
  frameset  : FramesetOk s
  scanner   : ScannerOk s
  outputs   : OutputsOk s
  conf      : ConfOk s
  latch     : LatchOk s

/-! ## Terms the claims use -/

/-- A container matches Pa under exactly this hypothesis: the first of 16, 20, 24 that fits (R91, R270). -/
def HypothesisIs (c : Cfg) (w : Container) : DataMode → Prop
  | .m16 => rj w 16 = c.pa16.toNat
  | .m20 => rj w 16 ≠ c.pa16.toNat ∧ rj w 20 = c.pa20.toNat
  | .m24 => rj w 16 ≠ c.pa16.toNat ∧ rj w 20 ≠ c.pa20.toNat ∧ rj w 24 = c.pa24.toNat

/-- Words `p` and `p + 1` of PCM are a Pa and its Pb "under the *same* hypothesis" (R271, R274). -/
def PreambleAt (s : State) (p : Nat) (m : DataMode) : Prop :=
  HypothesisIs s.cfg (s.pcm.read p) m ∧ rj (s.pcm.read (p + 1)) m.bits = pbOf s.cfg m

/-- The record at byte offset `p` of ES starts with a timecode sync, of either polarity (R62, R95). -/
abbrev TimecodeAt (s : State) (p : Nat) : Prop :=
  esWord s.es p = s.cfg.tcSync ∨ esWord s.es p = swap16 s.cfg.tcSync

/-- The record at byte offset `p` of ES starts with an audio sync, byte reversed or not (R60, R61, R95). -/
abbrev AudioAt (s : State) (p : Nat) (rev : Bool) : Prop :=
  esWord s.es p = if rev then swap16 s.cfg.ac3Sync else s.cfg.ac3Sync

/-- The record at byte offset `p` of ES starts with no sync (R155). -/
abbrev NoSyncAt (s : State) (p : Nat) : Prop := ¬ TimecodeAt s p ∧ ∀ rev, ¬ AudioAt s p rev

/-- The header of a frame whose sync word is at byte offset `p` of ES (R97, R159). -/
def HeaderAt (s : State) (p : Nat) (rev : Bool) : Except Exit Header :=
  decodeHeader s.cfg s.conf.alt (esWords s.es rev p Config.hdrWords) rev

/-- The header operation `i`, issued in `s`, comes to the record at byte offset `p` with a timecode record consumed when
`tc` is true and a frame when `fr` is: nothing yet, or one of each, in either order, each whole inside the stream (R154 to
R158). HDR.PEEK consumes no frame (R152). -/
inductive Reaches (s : State) (i : Instr) : (tc fr : Bool) → (p : Nat) → Prop where
  | start : Reaches s i false false s.strm.esPos.toNat
  | timecode {fr : Bool} {p : Nat} : Reaches s i false fr p → TimecodeAt s p →
      p + 2 * s.cfg.tcRecordWords ≤ s.strm.esLen.toNat → Reaches s i true fr (p + 2 * s.cfg.tcRecordWords)
  | frame {tc rev : Bool} {p : Nat} {hd : Header} : i = .hdrParse → Reaches s i tc false p → AudioAt s p rev →
      HeaderAt s p rev = .ok hd → p + 2 * hd.frameWords ≤ s.strm.esLen.toNat →
      Reaches s i tc true (p + 2 * hd.frameWords)

/-- A state in which an operation other than SYS.RESET and CSR.RD runs (R327). -/
abbrev Running (s : State) : Prop := s.faultFlag = false

/-- The table of R321: the ERRCODE values each operation can raise. -/
def errCodesOf : Instr → List (BitVec 8)
  | .sysReset => []
  | .csrRd _ => [10]
  | .csrWr _ _ => [9, 10]
  | .buInit _ _ => []
  | .buUnpack _ _ => [1]
  | .buUnkey _ _ => [1]
  | .deParse _ _ => [1]
  | .hdrParse => [1, 2, 3, 4, 5, 9]
  | .hdrPeek => [1, 2, 3, 4, 5, 9]
  | .bszSize _ _ _ => [9]
  | .fsOffer => [7]
  | .fsFlush => []
  | .fsClear => []
  | .burstEnc => [7]
  | .burstEncalt => [7, 9]
  | .burstEncde _ _ => [1, 7, 9]
  | .scanFind => [1]
  | .burstDec => [1]

/-- The state after `raise` of the kind with code `code` (R325): the three status registers and the result, nothing else. -/
def raisedState (s : State) (code : BitVec 8) (info : Nat) : State :=
  { s with stat := { s.stat with status := s.stat.status ||| 1#3, errCode := code, errInfo := BitVec.ofNat 32 info }
           result := 0 }

end Sys2Proof
end

