-- ==== Sys2Proof/WellFormed.lean ====
section
/-!
DEFINITION. The part of the caller's contract that an operation's operands alone decide (R335 of 60_exceptions.md).

A command word with operands outside it still decodes (R112: "An operation that needs a narrower value states its
admitted range"); executing it is refused by name. Bounds against Cfg (DEBUF_CAP, BUOUT_CAP) and against State are not
here: the meanings test them.
-/

namespace Sys2Proof

/-- A bit depth operand the contract admits: 16, 20 or 24 (R131, R181, R254; U1). -/
def depthAdmitted (depth : Word32) : Bool := depth == 16 || depth == 20 || depth == 24

/-- A field width the contract admits: 1 .. 32 (R134; U4). -/
def numbitsAdmitted (numbits : Word32) : Bool := decide (1 ≤ numbits.toNat) && decide (numbits.toNat ≤ 32)

/-- The operands are inside the caller's contract, as far as the operands alone decide it (R335). -/
def Instr.wellFormed : Instr → Bool
  | .sysReset => true
  | .csrRd _ => true
  | .csrWr _ _ => true
  | .buInit depth _ => depthAdmitted depth
  | .buUnpack _ numbits => numbitsAdmitted numbits
  | .buUnkey _ _ => true
  | .deParse _ depth => depthAdmitted depth
  | .hdrParse => true
  | .hdrPeek => true
  | .bszSize _ _ _ => true
  | .fsOffer => true
  | .fsFlush => true
  | .fsClear => true
  | .burstEnc => true
  | .burstEncalt => true
  | .burstEncde _ depth => depthAdmitted depth
  | .scanFind => true
  | .burstDec => true

end Sys2Proof
end

