-- ==== Sys2Proof/Certificates/Slice0/Obligations.lean ====
section
/-!
DEFINITION. The statements for the provers, in the order of the spec's files: encoding, the fault latch, then each family
of operations, then what every step keeps.

A statement of an operation's result gives the whole next state: the equation `t = { s with ... }` names the fields that
may change, every other field (register group or memory) is the field of `s`; what a written memory reads at each
element follows.
-/

open Sys2Proof Sys2Proof.Machine

/-! ## Command words (30_encoding.md Part B) -/

/-- Command words written out in the spec decode to the operations they stand for (R116, R309, programs P3 and P4). -/
def Obligations.SpecCommandWordsDecode : Prop :=
  decode 0x28000000020000000400000007 = .ok (.bszSize 2 4 7) ∧
  decode 0x03000000010000000D00000000 = .ok (.csrWr 1 13) ∧
  decode 0x02000000730000000000000000 = .ok (.csrRd 0x73) ∧
  decode 0x18000000090000001000000000 = .ok (.deParse 9 16) ∧
  decode 0x3A000000090000001000000000 = .ok (.burstEncde 9 16) ∧
  decode 0x20000000000000000000000000 = .ok .hdrParse ∧
  decode 0x41000000000000000000000000 = .ok .burstDec

/-- Decoding the word an operation assembles to gives the operation back, with every operand at every value. -/
def Obligations.DecodeInvertsEncode : Prop := ∀ i : Instr, decode (encode i) = .ok i

/-- The op values of R111 and no others decode; any other raises IllegalOp with info = op; and a field marked "-" is
ignored (R113). That the word is the head of the list `port`, which the step takes off, is the model's choice (assumption
log 1). -/
def Obligations.IllegalCommandWords : Prop :=
  (∀ w : CmdWord, (∃ i, decode w = .ok i) ↔
    (cmdOp w).toNat ∈ [0x01, 0x02, 0x03, 0x10, 0x11, 0x12, 0x18, 0x20, 0x21, 0x28, 0x30, 0x31, 0x32, 0x38, 0x39, 0x3A,
      0x40, 0x41]) ∧
  (∀ (s : State) (w : CmdWord) (rest : List CmdWord), s.port = w :: rest → Running s → (¬ ∃ i, decode w = .ok i) →
    step s = .next (raisedState { s with port := rest } 10 (cmdOp w).toNat)) ∧
  (∀ (op : BitVec 8) (a b c c' : Word32), op ≠ 0x28 → decode (cmdWord op a b c) = decode (cmdWord op a b c')) ∧
  (∀ (op : BitVec 8) (a b b' c : Word32), op ∉ [0x03, 0x10, 0x11, 0x12, 0x18, 0x28, 0x3A] →
    decode (cmdWord op a b c) = decode (cmdWord op a b' c)) ∧
  (∀ (op : BitVec 8) (a a' b c : Word32), op ∉ [0x02, 0x03, 0x10, 0x11, 0x12, 0x18, 0x28, 0x3A] →
    decode (cmdWord op a b c) = decode (cmdWord op a' b c))

/-- A step takes the oldest command from the port (assumption log 1) and runs the operation it decodes to. With no
command on the port it changes nothing: that is the model's choice (assumption log 2). -/
def Obligations.StepRunsTheDecodedCommand : Prop :=
  (∀ (s : State) (w : CmdWord) (rest : List CmdWord) (i : Instr), s.port = w :: rest → decode w = .ok i →
    step s = exec i { s with port := rest }) ∧
  ∀ s : State, s.port = [] → step s = .next s

/-! ## Errors (60_exceptions.md) -/

/-- While the fault is latched SYS.RESET works, CSR.RD works and never raises, and every other command, legal or not,
changes no register and no memory and returns 0 (R327). The model's choices in it: the reset state empties FRAME, FSBUF, DEBUF
and BUOUT and keeps the command port and the configuration (assumption logs 1, 3 and 6); a counter of U22 beyond 2^32 - 1,
and a register that LAYOUT makes wider than 32 bits, is read modulo 2^32 (assumption logs 8 and 9). -/
def Obligations.FaultedMachineIgnoresCommands : Prop :=
  ∀ (s : State) (w : CmdWord) (rest : List CmdWord), s.port = w :: rest → s.faultFlag = true →
    (cmdOp w = 0x01 → step s = .next ({ s with port := rest } : State).enterReset) ∧
    (cmdOp w = 0x02 → ∃ v : Word32, step s = .next { s with port := rest, result := v } ∧
      (∀ r : Reg, r.number = (cmdA w).toNat → v = BitVec.ofNat 32 (s.regValue r)) ∧
      ((∀ r : Reg, r.number ≠ (cmdA w).toNat) → v = 0)) ∧
    (cmdOp w ≠ 0x01 → cmdOp w ≠ 0x02 → step s = .next { s with port := rest, result := 0 })

/-- An operation that ends with the fault latched, and did not start so, committed nothing: only FAULT, ERRCODE, ERRINFO
and the result differ, and ERRCODE is a code R321 lists for the operation. -/
def Obligations.RaisingCommitsNothing : Prop :=
  ∀ (i : Instr) (s t : State), Running s → exec i s = .next t → t.faultFlag = true →
    ∃ info, t = raisedState s t.stat.errCode info ∧ t.stat.errCode ∈ errCodesOf i

/-- But for SYS.RESET, no operation clears FAULT or WARN, warnings are only counted up, and EOF is written by HDR.PARSE,
HDR.PEEK and SCAN.FIND only. -/
def Obligations.StatusBitsAreSticky : Prop :=
  ∀ (i : Instr) (s t : State), exec i s = .next t → i ≠ .sysReset →
    (s.faultFlag = true → t.faultFlag = true ∧ t.stat.errCode = s.stat.errCode ∧ t.stat.errInfo = s.stat.errInfo) ∧
    (s.warnFlag = true → t.warnFlag = true) ∧ s.stat.warnCount ≤ t.stat.warnCount ∧
    (i ≠ .hdrParse → i ≠ .hdrPeek → i ≠ .scanFind → t.eofFlag = s.eofFlag)

/-- Every refusal (the rows of R335), under the reason its operation's rule names; an operation whose operands alone are
outside the contract (`Instr.wellFormed`) is always refused. Which refusal is named where several hold at once is the model's
choice (assumption log 11): the first that the operation's rule lists. -/
def Obligations.RefusedOutsideTheContract : Prop :=
  (∀ (s : State) (i : Instr), Running s → i.wellFormed = false → ∃ why, exec i s = .refused why) ∧
  ∀ (s : State) (a b : Word32), Running s →
    (a ∉ [16, 20, 24] → exec (.buInit a b) s = .refused .badBitDepth ∧ exec (.deParse b a) s = .refused .badBitDepth ∧
      exec (.burstEncde b a) s = .refused .badBitDepth) ∧
    (a ∈ [16, 20, 24] → s.cfg.debufCap < b.toNat → exec (.buInit a b) s = .refused .bufferTooLong ∧
      exec (.deParse b a) s = .refused .bufferTooLong ∧ exec (.burstEncde b a) s = .refused .bufferTooLong) ∧
    (a ∈ [16, 20, 24] → b.toNat ≤ s.cfg.debufCap → s.bsz.valid = false →
      exec (.burstEncde b a) s = .refused .noBurstSize) ∧
    (s.bu.depth = none → exec (.buUnpack a b) s = .refused .unpackerNotInitialised ∧
      exec (.buUnkey a b) s = .refused .unpackerNotInitialised) ∧
    (s.bu.depth ≠ none → (b.toNat = 0 ∨ 32 < b.toNat) → exec (.buUnpack a b) s = .refused .badFieldWidth) ∧
    (s.bu.depth ≠ none → 1 ≤ b.toNat → b.toNat ≤ 32 → s.cfg.buoutCap < a.toNat →
      exec (.buUnpack a b) s = .refused .tooManyItems) ∧
    (s.fs.state ≠ .accumulating → exec .fsOffer s = .refused .framesetClosed) ∧
    (s.fs.state = .accumulating → (s.hdr.valid = false ∨ s.hdr.frameValid = false) →
      exec .fsOffer s = .refused .noFrame) ∧
    (s.fs.state = .accumulating → s.hdr.valid = true → s.hdr.frameValid = true → s.bsz.valid = false →
      exec .fsOffer s = .refused .noBurstSize) ∧
    (s.fs.state = .accumulating → exec .burstEnc s = .refused .framesetNotClosed ∧
      exec .burstEncalt s = .refused .framesetNotClosed) ∧
    (s.fs.state ≠ .accumulating → s.bsz.valid = false → exec .burstEnc s = .refused .noBurstSize ∧
      exec .burstEncalt s = .refused .noBurstSize) ∧
    (s.sc.locked = false → exec .burstDec s = .refused .noLocatedPreamble) ∧
    ((b.toNat % 2 = 1 ∨ s.strm.esLen.toNat < b.toNat) → exec (.csrWr 0x10 b) s = .refused .badSeek) ∧
    (s.strm.pcmLen.toNat < b.toNat → exec (.csrWr 0x12 b) s = .refused .badSeek)

/-! ## System operations (48_system.md, 70_reset_and_hazards.md) -/

/-- SYS.RESET, in every state: every register reads 0 but CFG_CW, which is 16, and ES_LEN and PCM_LEN, which keep the
environment's value; `port` and `cfg`, the model's own fields (assumption logs 1 and 3), are kept;
BURSTOUT and PAYOUT are empty; ES, DEFRAME and PCM keep their contents. Nothing is said of FRAME, FSBUF, DEBUF and BUOUT,
which are unspecified. -/
def Obligations.SysResetEntersTheResetState : Prop :=
  ∀ s : State, ∃ t, exec .sysReset s = .next t ∧ t.result = 0 ∧ t.cfg = s.cfg ∧ t.port = s.port ∧
    t.regValue .cfgCw = 16 ∧ t.regValue .esLen = s.regValue .esLen ∧ t.regValue .pcmLen = s.regValue .pcmLen ∧
    (∀ r : Reg, r ≠ .cfgCw → r ≠ .esLen → r ≠ .pcmLen → t.regValue r = 0) ∧
    t.burstout = [] ∧ t.payout = [] ∧ t.es = s.es ∧ t.deframe = s.deframe ∧ t.pcm = s.pcm

/-- The numbers of the registers (the tables of 10_state.md) in the order of `Reg.all`, which lists every register; and
CSR.RD of a register's number returns its value (modulo 2^32 for the registers held as naturals, assumption logs 8 and 9) and
changes nothing, faulted or not. -/
def Obligations.CsrRdReturnsTheRegister : Prop :=
  Reg.all.map Reg.number =
    [0x00, 0x01, 0x02, 0x08, 0x09, 0x0A, 0x0B, 0x10, 0x11, 0x12, 0x13, 0x14, 0x15, 0x16, 0x20, 0x21, 0x22, 0x23, 0x30, 0x31,
     0x32, 0x33, 0x34, 0x35, 0x36, 0x37, 0x38, 0x39, 0x3A, 0x3B, 0x3C, 0x3D, 0x3E, 0x40, 0x41, 0x42, 0x43, 0x44, 0x45, 0x46,
     0x47, 0x48, 0x49, 0x4A, 0x4B, 0x4C, 0x4D, 0x50, 0x51, 0x52, 0x58, 0x59, 0x5A, 0x5B, 0x5C, 0x5D, 0x5E, 0x5F, 0x60, 0x61,
     0x62, 0x63, 0x64, 0x65, 0x66, 0x67, 0x70, 0x71, 0x72, 0x73, 0x74, 0x75, 0x76, 0x77, 0x78, 0x79, 0x7A, 0x7B] ∧
  (∀ r : Reg, r ∈ Reg.all) ∧
  ∀ (s : State) (a : Word32) (r : Reg), r.number = a.toNat →
    exec (.csrRd a) s = .next { s with result := BitVec.ofNat 32 (s.regValue r) }

/-- R304: a number that is no register's, every number from 0x7C among them, raises IllegalOp with info = 0x10000 | (a &
0xFFFF) in CSR.RD and CSR.WR; CSR.RD under a fault returns 0 instead. -/
def Obligations.UnknownRegisterNumbers : Prop :=
  (∀ r : Reg, r.number < 0x7C) ∧
  ∀ (s : State) (a b : Word32), (∀ r : Reg, r.number ≠ a.toNat) →
    (Running s → exec (.csrRd a) s = .next (raisedState s 10 (0x10000 + a.toNat % 2 ^ 16)) ∧
      exec (.csrWr a b) s = .next (raisedState s 10 (0x10000 + a.toNat % 2 ^ 16))) ∧
    (s.faultFlag = true → exec (.csrRd a) s = .next { s with result := 0 })

/-- R307: what CSR.WR stores in each of the six writable registers; nothing else changes, so H_VALID, FRAME_VALID and
SC_LOCKED do not. -/
def Obligations.CsrWrStoresTheValue : Prop :=
  ∀ (s : State) (b : Word32), Running s →
    exec (.csrWr 0x00 b) s = .next { s with conf := { s.conf with alt := decide (b.toNat % 2 = 1) }, result := 0 } ∧
    exec (.csrWr 0x01 b) s =
      .next { s with conf := { s.conf with streamNum := BitVec.ofNat 3 (b.toNat % 8) }, result := 0 } ∧
    (b = 16 ∨ b = 24 ∨ b = 32 → exec (.csrWr 0x02 b) s =
      .next { s with conf := { s.conf with cw := BitVec.ofNat 6 b.toNat }, result := 0 }) ∧
    (b.toNat % 2 = 0 → b.toNat ≤ s.strm.esLen.toNat →
      exec (.csrWr 0x10 b) s = .next { s with strm := { s.strm with esPos := b }, result := 0 }) ∧
    (b.toNat ≤ s.strm.pcmLen.toNat →
      exec (.csrWr 0x12 b) s = .next { s with strm := { s.strm with pcmPos := b }, result := 0 }) ∧
    exec (.csrWr 0x52 b) s = .next { s with bsz := { s.bsz with deIndex := b.toNat }, result := 0 }

/-- The two raises of R306: a register that is not writable, and a CFG_CW value that is not 16, 24 or 32. -/
def Obligations.CsrWrRejectsTheValue : Prop :=
  ∀ (s : State) (a b : Word32), Running s →
    (∀ r : Reg, r.number = a.toNat → a.toNat ∉ [0x00, 0x01, 0x02, 0x10, 0x12, 0x52] →
      exec (.csrWr a b) s = .next (raisedState s 10 (0x20000 + a.toNat))) ∧
    (b ≠ 16 → b ≠ 24 → b ≠ 32 → exec (.csrWr 0x02 b) s = .next (raisedState s 9 b.toNat))

/-! ## The bit unpacker (41_bit_unpacker.md) -/

/-- BU.INIT copies the frame into DEBUF and sets the depth, the length and the cursor. -/
def Obligations.BuInitLoadsTheFrame : Prop :=
  ∀ (s : State) (depth len : Word32) (m : DataMode), Running s → s.debuf.wf → depth.toNat = m.bits →
    len.toNat ≤ s.cfg.debufCap →
    ∃ t, exec (.buInit depth len) s = .next t ∧
      t = { s with bu := { depth := some m, len := len, wp := 0, bp := 0 }, debuf := t.debuf, result := 0 } ∧
      ∀ a, t.debuf.read a = if a < len.toNat then s.deframe.read a else s.debuf.read a

/-- BU.UNPACK delivers the fields bit by bit: bit i of item k is bit P + k * numbits + (numbits - 1 - i) of the stream,
where bit j is `DEBUF[j div N][31 - (j mod N)]`; the cursor moves past them and is normalised; the result is the first
item. Fields that run past the end of the buffer raise ReadError with the position before the operation. -/
def Obligations.BuUnpackReadsTheFields : Prop :=
  ∀ (s : State) (numitems numbits : Word32) (m : DataMode), Running s → s.buout.wf → s.bu.depth = some m →
    1 ≤ numbits.toNat → numbits.toNat ≤ 32 → numitems.toNat ≤ s.cfg.buoutCap → s.bu.len.toNat ≤ s.cfg.debufCap →
    let N := m.bits
    let P := s.bu.wp.toNat * N + s.bu.bp.toNat
    (s.bu.len.toNat * N < P + numitems.toNat * numbits.toNat →
      exec (.buUnpack numitems numbits) s = .next (raisedState s 1 P)) ∧
    (P + numitems.toNat * numbits.toNat ≤ s.bu.len.toNat * N →
    ∃ t, exec (.buUnpack numitems numbits) s = .next t ∧
      t = { s with bu := { s.bu with wp := t.bu.wp, bp := t.bu.bp }, buout := t.buout, result := t.result } ∧
      t.bu.wp.toNat * N + t.bu.bp.toNat = P + numitems.toNat * numbits.toNat ∧ t.bu.bp.toNat < N ∧
      (∀ k i, k < numitems.toNat → i < 32 → (t.buout.read k).getLsbD i =
        (decide (i < numbits.toNat) &&
          let j := P + k * numbits.toNat + (numbits.toNat - 1 - i)
          (s.debuf.read (j / N)).getLsbD (31 - j % N))) ∧
      (∀ a, numitems.toNat ≤ a → t.buout.read a = s.buout.read a) ∧
      t.result = if numitems.toNat = 0 then 0 else t.buout.read 0)

/-- BU.UNKEY XORs the key, reduced to N bits and shifted left by 32 - N, into `num_items` words from the first word of
which no bit has been consumed, and raises ReadError with that word when the words run past the buffer. -/
def Obligations.BuUnkeyXorsTheKey : Prop :=
  ∀ (s : State) (key n : Word32) (m : DataMode), Running s → s.debuf.wf → s.bu.depth = some m →
    s.bu.bp.toNat < m.bits → s.bu.len.toNat ≤ s.cfg.debufCap →
    let start := if s.bu.bp.toNat = 0 then s.bu.wp.toNat else s.bu.wp.toNat + 1
    (start + n.toNat ≤ s.bu.len.toNat → ∃ t, exec (.buUnkey key n) s = .next t ∧
      t = { s with debuf := t.debuf, result := 0 } ∧
      ∀ a, t.debuf.read a = if start ≤ a ∧ a < start + n.toNat
        then s.debuf.read a ^^^ BitVec.ofNat 32 (key.toNat % 2 ^ m.bits * 2 ^ (32 - m.bits)) else s.debuf.read a) ∧
    (s.bu.len.toNat < start + n.toNat → exec (.buUnkey key n) s = .next (raisedState s 1 start))

/-- Two BU.UNKEY with the same operands restore the whole state, DEBUF with it (the self-inverse of R140). -/
def Obligations.UnkeyTwiceRestores : Prop :=
  ∀ (s t : State) (key n : Word32), s.debuf.wf → Running s → exec (.buUnkey key n) s = .next t → Running t →
    exec (.buUnkey key n) t = .next { s with result := 0 }

/-! ## The Dolby E header (43_dolby_e_header.md) -/

/-- DE.PARSE of a frame that is not keyed: every field where R183 places it. `two` is word 5 followed by word 6. -/
def Obligations.DeParseReadsAnUnkeyedHeader : Prop :=
  ∀ (s : State) (len depth : Word32) (m : DataMode), Running s → s.debuf.wf → depth.toNat = m.bits →
    len.toNat ≤ s.cfg.debufCap →
    let N := m.bits
    let word (i : Nat) : Nat := (s.deframe.read i).toNat / 2 ^ (32 - N)
    let two := word 5 * 2 ^ N + word 6
    word 4 % 2 = 0 → 5 * N + 24 ≤ len.toNat * N →
    ∃ t, exec (.deParse len depth) s = .next t ∧
      t = { s with stat := t.stat, bu := t.bu, de := t.de, debuf := t.debuf, result := t.result } ∧
      t.de.valid = true ∧ t.de.bitDepth = some m ∧ t.de.frameWords = len ∧ t.de.pre0.toNat = word 0 ∧
      t.de.pre1.toNat = word 1 ∧ t.de.pre2.toNat = word 2 ∧ t.de.pre3.toNat = word 3 ∧ t.de.syncf.toNat = word 4 / 2 ∧
      t.de.keyPresent = false ∧ t.de.key = 0 ∧ t.de.revid.toNat = two / 2 ^ (2 * N - 4) ∧
      t.de.segsize.toNat = two / 2 ^ (2 * N - 14) % 2 ^ 10 ∧ t.de.progcfg.toNat = two / 2 ^ (2 * N - 20) % 2 ^ 6 ∧
      t.de.frcode.toNat = two / 2 ^ (2 * N - 24) % 2 ^ 4 ∧ t.result.toNat = t.de.frcode.toNat ∧
      t.bu.depth = some m ∧ t.bu.len = len ∧ t.bu.wp.toNat * N + t.bu.bp.toNat = 5 * N + 24 ∧ t.bu.bp.toNat < N ∧
      (∀ a, t.debuf.read a = if a < len.toNat then s.deframe.read a else s.debuf.read a) ∧
      t.stat = if word 4 / 2 = deSyncExpectOf s.cfg m then s.stat
        else { s.stat with status := s.stat.status ||| 2#3, warnCount := s.stat.warnCount + 1 }

/-- DE.PARSE of a keyed frame: word 5 is the key, the first unkey pass covers word 6, which holds the segment size, and the
second the words from 7 on that the segment size counts (R183, R185, R187). -/
def Obligations.DeParseReadsAKeyedHeader : Prop :=
  ∀ (s : State) (len depth : Word32) (m : DataMode), Running s → s.debuf.wf → depth.toNat = m.bits →
    len.toNat ≤ s.cfg.debufCap →
    let N := m.bits
    let word (i : Nat) : Nat := (s.deframe.read i).toNat / 2 ^ (32 - N)
    let key := word 5
    let word6 := word 6 ^^^ key
    let seg := word6 / 2 ^ (N - 14) % 2 ^ 10
    let word7 := if seg = 0 then word 7 else word 7 ^^^ key
    let two := word6 * 2 ^ N + word7
    word 4 % 2 = 1 → 7 + seg ≤ len.toNat → 6 * N + 24 ≤ len.toNat * N →
    ∃ t, exec (.deParse len depth) s = .next t ∧
      t = { s with stat := t.stat, bu := t.bu, de := t.de, debuf := t.debuf, result := t.result } ∧
      t.de.valid = true ∧ t.de.bitDepth = some m ∧ t.de.frameWords = len ∧ t.de.pre0.toNat = word 0 ∧
      t.de.pre1.toNat = word 1 ∧ t.de.pre2.toNat = word 2 ∧ t.de.pre3.toNat = word 3 ∧ t.de.syncf.toNat = word 4 / 2 ∧
      t.de.keyPresent = true ∧ t.de.key.toNat = key ∧ t.de.revid.toNat = two / 2 ^ (2 * N - 4) ∧
      t.de.segsize.toNat = seg ∧ t.de.progcfg.toNat = two / 2 ^ (2 * N - 20) % 2 ^ 6 ∧
      t.de.frcode.toNat = two / 2 ^ (2 * N - 24) % 2 ^ 4 ∧ t.result.toNat = t.de.frcode.toNat ∧
      t.bu.depth = some m ∧ t.bu.len = len ∧ t.bu.wp.toNat * N + t.bu.bp.toNat = 6 * N + 24 ∧ t.bu.bp.toNat < N ∧
      (∀ a, t.debuf.read a =
        if 6 ≤ a ∧ a < 7 + seg then s.deframe.read a ^^^ BitVec.ofNat 32 (key * 2 ^ (32 - N))
        else if a < len.toNat then s.deframe.read a else s.debuf.read a) ∧
      t.stat = if word 4 / 2 = deSyncExpectOf s.cfg m then s.stat
        else { s.stat with status := s.stat.status ||| 2#3, warnCount := s.stat.warnCount + 1 }

/-- DE.PARSE of a frame too short for its header raises ReadError with the bit position at which the first failing step
started (R188), for every length at which a step fails. -/
def Obligations.DeParseOfAShortFrame : Prop :=
  ∀ (s : State) (len depth : Word32) (m : DataMode), Running s → s.debuf.wf → depth.toNat = m.bits →
    len.toNat ≤ s.cfg.debufCap →
    let N := m.bits
    let n := len.toNat
    let word (i : Nat) : Nat := (s.deframe.read i).toNat / 2 ^ (32 - N)
    let seg := (word 6 ^^^ word 5) / 2 ^ (N - 14) % 2 ^ 10
    let raisesAt (p : Nat) : Prop := exec (.deParse len depth) s = .next (raisedState s 1 p)
    (n < 4 → raisesAt 0) ∧ (n = 4 → raisesAt (4 * N)) ∧ (n = 5 → raisesAt (5 * N)) ∧
    (word 4 % 2 = 0 → n = 6 → N = 16 → raisesAt (5 * N + 14)) ∧
    (word 4 % 2 = 0 → n = 6 → N = 20 → raisesAt (5 * N + 20)) ∧
    (word 4 % 2 = 1 → n = 6 → raisesAt (6 * N)) ∧
    (word 4 % 2 = 1 → 7 ≤ n → n < 7 + seg → raisesAt (6 * N + 14)) ∧
    (word 4 % 2 = 1 → n = 7 → seg = 0 → N = 16 → raisesAt (6 * N + 14)) ∧
    (word 4 % 2 = 1 → n = 7 → seg = 0 → N = 20 → raisesAt (6 * N + 20))

/-- R191 (b): two DE.PARSE of the same DEFRAME give the same registers and the same un-keyed frame. -/
def Obligations.DeParseTwiceAgrees : Prop :=
  ∀ (s t : State) (len depth : Word32), s.debuf.wf → Running s → exec (.deParse len depth) s = .next t → Running t →
    ∃ u, exec (.deParse len depth) t = .next u ∧ u.de = t.de ∧ u.bu = t.bu ∧ u.result = t.result ∧
      ∀ a, u.debuf.read a = t.debuf.read a

/-! ## The frame-header decoder (42_frame_header.md) -/

/-- What a header decodes to, and every error of it in the order of R168 (R159 to R166). The model's choices in it: the ranges
of a field are put together with the first as the most significant (assumption log 10); a word behind the four of the header
reads as 0 (log 13); a block-count code above 3, which NUMBLKS does not have, gives a free value (log 20). -/
def Obligations.HeaderFieldsDecode : Prop :=
  ∀ (c : Cfg) (alt rev : Bool) (h : List Word16),
    let width (r : BitRange) : Nat := r.hi - r.lo + 1
    let field (f : FieldPos) : Nat :=
      f.ranges.foldl (fun v r => v * 2 ^ width r + (h.getD r.word 0).toNat / 2 ^ r.lo % 2 ^ width r) 0
    let bsid := field c.layout.bsid
    let f := field c.layout.fscod
    let k := field c.layout.frmsizecod
    let words := field c.layout.frmsiz + c.eac3FrmsizBias
    let raw := field c.layout.strmtyp
    let decoded := decodeHeader c alt h rev
    ((bsid = 9 ∨ bsid = 10 ∨ 16 < bsid) → decoded = .error (.raised .invalidBsid bsid)) ∧
    (bsid ≤ 8 → c.nFscod ≤ f → decoded = .error (.raised .invalidSampleRate f)) ∧
    (bsid ≤ 8 → f < c.nFscod → c.nFrmsizecod ≤ k → decoded = .error (.raised .invalidDataRate k)) ∧
    (∀ w, bsid ≤ 8 → f < c.nFscod → k < c.nFrmsizecod → tableEntry c.ac3FrameWords f k = some w →
      decoded = if w.toNat < 4 then .error (.raised .invalidDataRate w.toNat)
        else .ok { kind := .ac3, bsid := bsid, fscod := f, frmsizecod := k, frameWords := w.toNat, blocks := 6,
                   strmtyp := .indep, substreamid := 0, byterev := rev }) ∧
    (11 ≤ bsid → bsid ≤ 16 → alt = true → decoded = .error (.raised .configError 1)) ∧
    (11 ≤ bsid → bsid ≤ 16 → alt = false →
      decoded = if words < 4 then .error (.raised .invalidDataRate words)
        else .ok { kind := .eac3, bsid := bsid, fscod := field c.layout.efscod, frmsizecod := 0, frameWords := words,
                   blocks := if field c.layout.efscod = c.fscodForce6 then 6
                     else [1, 2, 3, 6].getD (field c.layout.numblkscod)
                       (Config.numBlksBeyond (field c.layout.numblkscod)).toNat,
                   strmtyp := if raw = c.stIndep then .indep else if raw = c.stDep then .dep
                     else if raw = c.stTrans then .trans else .other,
                   substreamid := field c.layout.substreamid, byterev := rev })

/-- R153 (a): at the end of the stream both header operations end with the Eof condition. -/
def Obligations.HeaderOperationsReportEof : Prop :=
  ∀ s : State, Running s → s.strm.esPos = s.strm.esLen →
    let t : State := { s with
      stat := { s.stat with status := s.stat.status ||| 4#3 }
      hdr := { s.hdr with valid := false, frameValid := false, tcSeen := false, stop := .eos, consumed := 0 }
      result := 0 }
    exec .hdrParse s = .next t ∧ exec .hdrPeek s = .next t

/-- HDR.PARSE consumes one frame and at most one timecode record, in either order, and stops at the end of the stream or in
front of a record of a kind it has consumed: the rows of R158 in which a frame is consumed. `lead` and `trail` say whether
a timecode record stands in front of the frame or behind it; `q` is where the frame starts, `e` where the call stops. -/
def Obligations.HdrParseConsumesATimeslice : Prop :=
  ∀ (s : State) (lead trail rev : Bool) (q e : Nat) (hd : Header) (stop : StopCode),
    s.cfg.wellFormed = true → s.frame.wf → Running s →
    let p := s.strm.esPos.toNat
    let len := s.strm.esLen.toNat
    let record := 2 * s.cfg.tcRecordWords
    let fw := hd.frameWords
    (lead = true → TimecodeAt s p) → q = p + (if lead then record else 0) →
    AudioAt s q rev → HeaderAt s q rev = .ok hd →
    (trail = true → lead = false ∧ q + 2 * fw + 2 ≤ len ∧ TimecodeAt s (q + 2 * fw)) →
    e = q + 2 * fw + (if trail then record else 0) → e ≤ len →
    ((e = len ∧ stop = .eos) ∨
      (e + 2 ≤ len ∧ stop = .newslice ∧ ((∃ r, AudioAt s e r) ∨ ((lead || trail) = true ∧ TimecodeAt s e)))) →
    ∃ t, exec .hdrParse s = .next t ∧
      t = { s with
        stat := { s.stat with status := s.stat.status &&& 3#3 }
        strm := { s.strm with esPos := BitVec.ofNat 32 e }
        hdr := { valid := true, kind := hd.kind, bsid := hd.bsid, fscod := hd.fscod,
                 frmsizecod := hd.frmsizecod, frameWords := BitVec.ofNat 16 fw,
                 blocks := BitVec.ofNat 3 hd.blocks, strmtyp := hd.strmtyp,
                 substreamid := hd.substreamid, byterev := rev, start := BitVec.ofNat 32 q, stop := stop,
                 tcSeen := lead || trail, frameValid := true, consumed := e - p }
        frame := t.frame
        result := 1 } ∧
      ∀ j, t.frame.read j =
        if j < fw then (if rev then swap16 (esWord s.es (q + 2 * j)) else esWord s.es (q + 2 * j)) else s.frame.read j

/-- A timecode record with no frame behind it (the rows `T T` and `T $` of R158): it is skipped, and no header is valid. -/
def Obligations.TimecodeOnlyTimeslice : Prop :=
  ∀ (s : State) (i : Instr) (e : Nat) (stop : StopCode), i = .hdrParse ∨ i = .hdrPeek → s.cfg.wellFormed = true →
    Running s → TimecodeAt s s.strm.esPos.toNat → e = s.strm.esPos.toNat + 2 * s.cfg.tcRecordWords →
    ((e = s.strm.esLen.toNat ∧ stop = .eos) ∨ (e + 2 ≤ s.strm.esLen.toNat ∧ stop = .newslice ∧ TimecodeAt s e)) →
    exec i s = .next { s with
      stat := { s.stat with status := s.stat.status &&& 3#3 }
      strm := { s.strm with esPos := BitVec.ofNat 32 e }
      hdr := { s.hdr with valid := false, frameValid := false, tcSeen := true, stop := stop,
                          consumed := 2 * s.cfg.tcRecordWords }
      result := 0 }

/-- HDR.PEEK decodes the next header, behind at most one timecode record, leaves ES_POS just past the four header words,
and reads no frame: FRAME is unchanged and FRAME_VALID is 0 (R152). -/
def Obligations.HdrPeekStopsAfterTheHeader : Prop :=
  ∀ (s : State) (lead rev : Bool) (q : Nat) (hd : Header), s.cfg.wellFormed = true → Running s →
    let p := s.strm.esPos.toNat
    (lead = true → TimecodeAt s p) → q = p + (if lead then 2 * s.cfg.tcRecordWords else 0) →
    AudioAt s q rev → HeaderAt s q rev = .ok hd → q + 8 ≤ s.strm.esLen.toNat →
    exec .hdrPeek s = .next { s with
      stat := { s.stat with status := s.stat.status &&& 3#3 }
      strm := { s.strm with esPos := BitVec.ofNat 32 (q + 8) }
      hdr := { valid := true, kind := hd.kind, bsid := hd.bsid, fscod := hd.fscod,
               frmsizecod := hd.frmsizecod, frameWords := BitVec.ofNat 16 hd.frameWords,
               blocks := BitVec.ofNat 3 hd.blocks, strmtyp := hd.strmtyp,
               substreamid := hd.substreamid, byterev := rev, start := BitVec.ofNat 32 q,
               stop := .hdronly, tcSeen := lead, frameValid := false, consumed := q + 8 - p }
      result := 1 }

/-- R155: a record that starts with no sync raises SyncError with its byte offset, wherever in the call it stands: first,
behind a timecode record, and, in HDR.PARSE, behind a frame and behind a frame and a timecode record in either order. -/
def Obligations.MissingSyncRaises : Prop :=
  ∀ (s : State) (i : Instr) (tc fr : Bool) (p : Nat), i = .hdrParse ∨ i = .hdrPeek → s.cfg.wellFormed = true →
    Running s → Reaches s i tc fr p → p + 2 ≤ s.strm.esLen.toNat → NoSyncAt s p →
    exec i s = .next (raisedState s 2 p)

/-- The short reads of the header operations at every record of a call (R153, R154, R156, R157): one dangling byte, a
timecode record, a header, and, in HDR.PARSE, a frame body past the end of the stream. Each raises ReadError with the offset
of the record. A record of a kind already consumed is left unread, so only its two first bytes must be there. -/
def Obligations.ShortReadsRaise : Prop :=
  ∀ (s : State) (i : Instr) (tc fr : Bool) (p : Nat), i = .hdrParse ∨ i = .hdrPeek → s.cfg.wellFormed = true →
    Running s → Reaches s i tc fr p →
    let len := s.strm.esLen.toNat
    let raises : Prop := exec i s = .next (raisedState s 1 p)
    (p + 1 = len → raises) ∧
    (tc = false → p + 2 ≤ len → TimecodeAt s p → len < p + 2 * s.cfg.tcRecordWords → raises) ∧
    (∀ rev, fr = false → p + 2 ≤ len → AudioAt s p rev → len < p + 8 → raises) ∧
    (∀ rev hd, fr = false → i = .hdrParse → p + 8 ≤ len → AudioAt s p rev → HeaderAt s p rev = .ok hd →
      len < p + 2 * hd.frameWords → raises)

/-- An error of the header decoder is the error of the operation, for the header of the first record of the call and for a
header behind a timecode record (R154, R168): the four errors a header can have, with their ERRCODE (R321), and no other. -/
def Obligations.BadHeadersRaise : Prop :=
  ∀ (s : State) (i : Instr) (tc rev : Bool) (p : Nat) (kind : ErrKind) (info : Nat), i = .hdrParse ∨ i = .hdrPeek →
    s.cfg.wellFormed = true → Running s → Reaches s i tc false p → p + 8 ≤ s.strm.esLen.toNat → AudioAt s p rev →
    HeaderAt s p rev = .error (.raised kind info) →
    (kind = .invalidSampleRate ∧ exec i s = .next (raisedState s 3 info)) ∨
    (kind = .invalidDataRate ∧ exec i s = .next (raisedState s 4 info)) ∨
    (kind = .invalidBsid ∧ exec i s = .next (raisedState s 5 info)) ∨
    (kind = .configError ∧ exec i s = .next (raisedState s 9 info))

/-- R61, R169: HDR.PARSE of a stream whose words are all byte reversed does the same as of the stream itself, with H_BYTEREV
inverted when a frame was decoded: FRAME gets the same normalised words. -/
def Obligations.ByteReversedStreamsAreNormalised : Prop :=
  ∀ (s t : State) (es : Memory 8), s.cfg.wellFormed = true → s.strm.esPos.toNat % 2 = 0 →
    (∀ j, es.read (2 * j) = s.es.read (2 * j + 1) ∧ es.read (2 * j + 1) = s.es.read (2 * j)) →
    Running s → exec .hdrParse s = .next t →
    exec .hdrParse { s with es := es } = .next { t with
      es := es
      hdr := { t.hdr with byterev := if t.result = 1 then !t.hdr.byterev else t.hdr.byterev } }

/-- R78: the only backward moves of a cursor are a reset, a write of the host, and the rewind of FS.OFFER, which goes to
H_START. -/
def Obligations.CursorsMoveForward : Prop :=
  ∀ (i : Instr) (s t : State), CursorsOk s → exec i s = .next t → i ≠ .sysReset → (∀ a b, i ≠ .csrWr a b) →
    s.strm.pcmPos.toNat ≤ t.strm.pcmPos.toNat ∧
    (i ≠ .fsOffer → s.strm.esPos.toNat ≤ t.strm.esPos.toNat) ∧
    (i = .fsOffer → t.strm.esPos = s.strm.esPos ∨ t.strm.esPos = s.hdr.start)

/-! ## Burst sizes (44_burst_size.md) -/

/-- The sizes that are constants (R202): AC-3, E-AC-3 (whatever b and c), and the Dolby E codes other than FRC_2997. -/
def Obligations.BszSizeReturnsTheConstants : Prop :=
  ∀ (s : State) (frc k size : Word32), Running s →
    exec (.bszSize 0 frc k) s =
      .next { s with bsz := { s.bsz with size := s.cfg.bsAc3, valid := true }, result := s.cfg.bsAc3 } ∧
    exec (.bszSize 1 frc k) s =
      .next { s with bsz := { s.bsz with size := s.cfg.bsEac3, valid := true }, result := s.cfg.bsEac3 } ∧
    (frc.toNat ∈ s.cfg.deFrcodes → frc.toNat ≠ s.cfg.frc2997 → s.cfg.bsDe.lookup frc.toNat = some size →
      exec (.bszSize 2 frc k) s = .next { s with bsz := { s.bsz with size := size, valid := true }, result := size })

/-- R204: at 29.97 fps the burst size of frame index k is entry k mod 5 of the sequence, ten successive indices give it
twice, and one period is 16016 words. -/
def Obligations.SizesAt2997FollowTheSequence : Prop :=
  let sequence : List Word32 := [3204, 3202, 3204, 3204, 3202]
  (∀ (s : State) (frc k : Word32), Running s → frc.toNat = s.cfg.frc2997 →
    exec (.bszSize 2 frc k) s = .next { s with
      bsz := { s.bsz with size := sequence.getD (k.toNat % 5) 0, valid := true }
      result := sequence.getD (k.toNat % 5) 0 }) ∧
  (List.range 10).map (fun k => sequence.getD (k % 5) 0) = sequence ++ sequence ∧
  (sequence.map BitVec.toNat).sum = 16016

/-- R203: an unknown frame-rate code and an unknown format raise ConfigError. -/
def Obligations.UnknownBurstSizeRaises : Prop :=
  ∀ (s : State) (format frc k : Word32), Running s →
    (frc.toNat ∉ s.cfg.deFrcodes → frc.toNat ≠ s.cfg.frc2997 →
      exec (.bszSize 2 frc k) s = .next (raisedState s 9 frc.toNat)) ∧
    (2 < format.toNat → exec (.bszSize format frc k) s = .next (raisedState s 9 (0x100 ||| format.toNat % 2 ^ 8)))

/-! ## The frameset accumulator (45_frameset.md) -/

/-- FS.OFFER appends a frame that has the set's block count and fits: its words behind those already there, its blocks if
it qualifies, the codes of the set's first frame, and COMPLETE at six blocks (R216, R221, R222, R223). -/
def Obligations.FsOfferAppendsTheFrame : Prop :=
  ∀ s : State, Running s → s.fsbuf.wf → s.fs.state = .accumulating → s.hdr.valid = true → s.hdr.frameValid = true →
    s.bsz.valid = true → (s.fs.nframes = 0 ∨ s.hdr.blocks = s.fs.bpf) → s.fs.blocks.toNat < 6 →
    let fw := s.hdr.frameWords.toNat
    4 + s.fs.words + fw + 4 ≤ s.bsz.size.toNat → fw ≤ s.cfg.frameCap → s.fs.words + fw ≤ s.cfg.fsbufCap →
    let counts := (s.hdr.strmtyp = .indep ∨ s.hdr.strmtyp = .trans) ∧ s.hdr.substreamid = 0
    ∃ t, exec .fsOffer s = .next t ∧
      t = { s with fs := t.fs, fsbuf := t.fsbuf, hdr := { s.hdr with valid := false, frameValid := false },
                   result := BitVec.ofNat 32 t.fs.state.code } ∧
      t.fs.words = s.fs.words + fw ∧ t.fs.nframes = s.fs.nframes + 1 ∧
      (counts → t.fs.blocks.toNat = s.fs.blocks.toNat + s.hdr.blocks.toNat) ∧ (¬ counts → t.fs.blocks = s.fs.blocks) ∧
      t.fs.state = (if 6 ≤ t.fs.blocks.toNat then .complete else .accumulating) ∧
      (s.fs.nframes = 0 → t.fs.bpf = s.hdr.blocks ∧ t.fs.format = s.hdr.kind ∧ t.fs.fscod = s.hdr.fscod ∧
        t.fs.frmsizecod = s.hdr.frmsizecod) ∧
      (s.fs.nframes ≠ 0 → t.fs.bpf = s.fs.bpf ∧ t.fs.format = s.fs.format ∧ t.fs.fscod = s.fs.fscod ∧
        t.fs.frmsizecod = s.fs.frmsizecod) ∧
      ∀ a, t.fsbuf.read a =
        if s.fs.words ≤ a ∧ a < s.fs.words + fw then s.frame.read (a - s.fs.words) else s.fsbuf.read a

/-- A frame whose block count differs from the set's closes the set short and is not added; ES_POS is rewound to it, and no
status flag is set (R217, R218). -/
def Obligations.FsOfferFlushesShort : Prop :=
  ∀ s : State, Running s → s.fs.state = .accumulating → s.hdr.valid = true → s.hdr.frameValid = true →
    s.bsz.valid = true → 0 < s.fs.nframes → s.hdr.blocks ≠ s.fs.bpf →
    exec .fsOffer s = .next { s with
      fs := { s.fs with state := .flushedShort }, strm := { s.strm with esPos := s.hdr.start }
      hdr := { s.hdr with valid := false, frameValid := false }, result := 2 }

/-- R219: a frame that does not fit raises CapacityExceeded with info = FS_WORDS + fw, and an accepted set always fits: 4 +
FS_WORDS <= BSZ_SIZE - 4. -/
def Obligations.FsOfferKeepsTheCapacity : Prop :=
  ∀ s : State, Running s →
    (s.fs.state = .accumulating → s.hdr.valid = true → s.hdr.frameValid = true → s.bsz.valid = true →
      (s.fs.nframes = 0 ∨ s.hdr.blocks = s.fs.bpf) →
      s.bsz.size.toNat < 4 + s.fs.words + s.hdr.frameWords.toNat + 4 →
      exec .fsOffer s = .next (raisedState s 7 (s.fs.words + s.hdr.frameWords.toNat))) ∧
    (∀ t, exec .fsOffer s = .next t → t.fs.nframes = s.fs.nframes + 1 → 4 + t.fs.words + 4 ≤ s.bsz.size.toNat)

/-- FS.FLUSH closes a set that is accumulating and holds a frame, and changes no other (R225). -/
def Obligations.FsFlushClosesThePendingSet : Prop :=
  ∀ s : State, Running s →
    (s.fs.state = .accumulating → 0 < s.fs.nframes →
      exec .fsFlush s = .next { s with fs := { s.fs with state := .flushedShort }, result := 2 }) ∧
    (s.fs.state = .accumulating → s.fs.nframes = 0 → exec .fsFlush s = .next { s with result := 0 }) ∧
    (s.fs.state ≠ .accumulating → exec .fsFlush s = .next { s with result := BitVec.ofNat 32 s.fs.state.code })

/-- FS.CLEAR empties the set and touches neither FSBUF nor a header flag nor a cursor (R227). -/
def Obligations.FsClearEmptiesTheSet : Prop :=
  ∀ s : State, Running s → exec .fsClear s = .next { s with
    fs := { state := .accumulating, words := 0, blocks := 0, bpf := 0, nframes := 0, format := .ac3, fscod := 0,
            frmsizecod := 0 }
    result := 0 }

/-- The accumulator's invariants (R228), and with them the widths of FS_FSCOD and FS_FRMSIZECOD (R33, as the model reads it:
assumption log 9), the bound of the set on FSBUF (R221) and its entry of ALT_POINT (R250), are kept by every step, from every
state in which they hold, a valid header is one the decoder can give and a valid burst size fits FSBUF. -/
def Obligations.FramesetInvariantIsKept : Prop :=
  ∀ s t : State, HeaderOk s → BurstSizeOk s → FramesetOk s → step s = .next t → FramesetOk t

/-! ## Burst assembly (46_burst_encode.md) -/

/-- BURST.ENC appends one burst: Pa, Pb, Pc, Pd, the set's words left-justified, zeros up to the burst size (R90 to R93,
R241). -/
def Obligations.BurstEncAppendsTheBurst : Prop :=
  ∀ s : State, Running s → s.fs.state ≠ .accumulating → s.bsz.valid = true →
    let n := s.fs.words
    let S := s.bsz.size.toNat
    let fmt := if s.fs.format = .ac3 then s.cfg.fmtIdAc3.toNat else s.cfg.fmtIdEac3.toNat
    4 + n ≤ S → 16 * n < 2 ^ 16 → n ≤ s.cfg.fsbufCap →
    ∃ burst : List Container,
      exec .burstEnc s = .next { s with
        burstout := s.burstout ++ burst
        strm := { s.strm with burstoutLen := s.strm.burstoutLen + S, outCw := 16 }, result := s.bsz.size } ∧
      burst.length = S ∧
      burst.take 4 = [BitVec.ofNat 32 (s.cfg.pa16.toNat * 2 ^ 16), BitVec.ofNat 32 (s.cfg.pb16.toNat * 2 ^ 16),
        BitVec.ofNat 32 ((s.conf.streamNum.toNat * 2 ^ 13 + fmt) * 2 ^ 16), BitVec.ofNat 32 (16 * n * 2 ^ 16)] ∧
      (∀ j, j < n → burst[4 + j]? = some (BitVec.ofNat 32 ((s.fsbuf.read j).toNat * 2 ^ 16))) ∧
      (∀ j, 4 + n ≤ j → j < S → burst[j]? = some 0)

/-- BURST.ENCALT appends one burst whose payload ends at word T = ALT_POINT[FS_FSCOD][FS_FRMSIZECOD], with the preamble
directly in front of it and zeros elsewhere (R103, R248). -/
def Obligations.BurstEncaltAppendsTheBurst : Prop :=
  ∀ (s : State) (T : Nat), Running s → s.fs.state ≠ .accumulating → s.bsz.valid = true → s.fs.format = .ac3 →
    tableEntry s.cfg.altPoint s.fs.fscod s.fs.frmsizecod = some T →
    let n := s.fs.words
    let S := s.bsz.size.toNat
    T ≤ S → 4 + n ≤ T → 16 * n < 2 ^ 16 → n ≤ s.cfg.fsbufCap →
    ∃ burst : List Container,
      exec .burstEncalt s = .next { s with
        burstout := s.burstout ++ burst
        strm := { s.strm with burstoutLen := s.strm.burstoutLen + S, outCw := 16 }, result := s.bsz.size } ∧
      burst.length = S ∧
      (burst.drop (T - n - 4)).take 4 = [BitVec.ofNat 32 (s.cfg.pa16.toNat * 2 ^ 16),
        BitVec.ofNat 32 (s.cfg.pb16.toNat * 2 ^ 16),
        BitVec.ofNat 32 ((s.conf.streamNum.toNat * 2 ^ 13 + s.cfg.fmtIdAc3.toNat) * 2 ^ 16),
        BitVec.ofNat 32 (16 * n * 2 ^ 16)] ∧
      (∀ j, j < n → burst[T - n + j]? = some (BitVec.ofNat 32 ((s.fsbuf.read j).toNat * 2 ^ 16))) ∧
      (∀ j, j < T - n - 4 ∨ T ≤ j → j < S → burst[j]? = some 0)

/-- BURST.ENCDE appends one burst: a preamble of mode N, the containers of DEFRAME behind the frame's own four words, all 32
bits of them, zeros up to the burst size; and it counts the burst in DE_INDEX (R254 to R258). -/
def Obligations.BurstEncdeAppendsTheBurst : Prop :=
  ∀ (s : State) (len depth : Word32) (m : DataMode), Running s → depth.toNat = m.bits → len.toNat ≤ s.cfg.debufCap →
    s.bsz.valid = true → s.conf.alt = false → 4 ≤ len.toNat → len.toNat ≤ s.bsz.size.toNat →
    let N := m.bits
    let n := len.toNat - 4
    let S := s.bsz.size.toNat
    let shift := 2 ^ (32 - N)
    N * n < 2 ^ N →
    ∃ burst : List Container,
      exec (.burstEncde len depth) s = .next { s with
        burstout := s.burstout ++ burst
        strm := { s.strm with burstoutLen := s.strm.burstoutLen + S, outCw := 32 }
        bsz := { s.bsz with deIndex := s.bsz.deIndex + 1 }, result := s.bsz.size } ∧
      burst.length = S ∧
      burst.take 4 = [BitVec.ofNat 32 (paOf s.cfg m * shift), BitVec.ofNat 32 (pbOf s.cfg m * shift),
        BitVec.ofNat 32 ((s.conf.streamNum.toNat * 2 ^ 13 + fmtIdDeOf s.cfg m) * 2 ^ 16),
        BitVec.ofNat 32 (N * n * shift)] ∧
      (∀ j, j < n → burst[4 + j]? = some (s.deframe.read (4 + j))) ∧
      (∀ j, 4 + n ≤ j → j < S → burst[j]? = some 0)

/-- The raises of the encoders, each in its place in the order of tests (R242, R243, R249, R250, R257). -/
def Obligations.EncodersRaise : Prop :=
  ∀ (s : State) (T : Nat) (len depth : Word32) (m : DataMode), Running s → s.bsz.valid = true →
    let n := s.fs.words
    let S := s.bsz.size.toNat
    (s.fs.state ≠ .accumulating →
      (S < 4 + n ∨ 4096 ≤ n → exec .burstEnc s = .next (raisedState s 7 n)) ∧
      (s.fs.format ≠ .ac3 → exec .burstEncalt s = .next (raisedState s 9 2)) ∧
      (s.fs.format = .ac3 → tableEntry s.cfg.altPoint s.fs.fscod s.fs.frmsizecod = some T →
        S < T ∨ T < 4 + n ∨ 4096 ≤ n → exec .burstEncalt s = .next (raisedState s 7 n))) ∧
    (depth.toNat = m.bits → len.toNat ≤ s.cfg.debufCap →
      (s.conf.alt = true → exec (.burstEncde len depth) s = .next (raisedState s 9 3)) ∧
      (s.conf.alt = false → len.toNat < 4 → exec (.burstEncde len depth) s = .next (raisedState s 1 len.toNat)) ∧
      (s.conf.alt = false → 4 ≤ len.toNat → S < len.toNat ∨ 2 ^ m.bits ≤ m.bits * (len.toNat - 4) →
        exec (.burstEncde len depth) s = .next (raisedState s 7 (len.toNat - 4))))

/-- R51, R260: BURSTOUT and PAYOUT are only appended to until a reset, and every burst that an encoder appends has exactly
BSZ_SIZE words. -/
def Obligations.OutputsAreAppendOnly : Prop :=
  ∀ (i : Instr) (s t : State), exec i s = .next t → i ≠ .sysReset →
    (∃ burst, t.burstout = s.burstout ++ burst ∧ (burst = [] ∨ burst.length = s.bsz.size.toNat)) ∧
    (∃ payload, t.payout = s.payout ++ payload) ∧
    ((i = .burstEnc ∨ i = .burstEncalt ∨ ∃ len depth, i = .burstEncde len depth) → Running s → Running t →
      t.burstout.length = s.burstout.length + s.bsz.size.toNat)

/-! ## The scanner and burst extraction (47_sync_scan_decode.md) -/

/-- SCAN.FIND locks on the first Pa and Pb under one hypothesis: the scan registers, the cursor behind the preamble, and
the statistics of R277. -/
def Obligations.ScanFindsTheFirstPreamble : Prop :=
  ∀ (s : State) (q : Nat) (m : DataMode), Running s → s.strm.pcmPos.toNat ≤ q → q + 3 < s.strm.pcmLen.toNat →
    PreambleAt s q m → (∀ j m', s.strm.pcmPos.toNat ≤ j → j < q → ¬ PreambleAt s j m') →
    let pc := (s.pcm.read (q + 2)).toNat / 2 ^ 16
    let pd := (s.pcm.read (q + 3)).toNat / 2 ^ (32 - m.bits)
    let d := q - s.st.lastpos
    let later := 0 < s.st.finds
    let spaced := later ∧ s.st.lastpos < q
    exec .scanFind s = .next { s with
      stat := { s.stat with status := s.stat.status &&& 3#3 }
      strm := { s.strm with pcmPos := BitVec.ofNat 32 (q + 4) }
      sc := { s.sc with
        locked := true, mode := some m, pc := BitVec.ofNat 16 pc, pd := BitVec.ofNat 24 pd, papos := BitVec.ofNat 32 q
        type := if pc % 2 ^ 13 = s.cfg.fmtIdAc3.toNat then .ac3 else if pc % 2 ^ 13 = s.cfg.fmtIdEac3.toNat then .eac3
          else if pc % 2 ^ 13 = fmtIdDeOf s.cfg m then .dolbye else .unknown }
      st := {
        finds := s.st.finds + 1, lastpos := q, lastpar := q % 2, lastpc := pc, lastpd := pd
        nspace := if spaced then s.st.nspace + 1 else s.st.nspace
        sum := if spaced then s.st.sum + d else s.st.sum
        min := if spaced then (if s.st.nspace = 0 then d else Nat.min s.st.min d) else s.st.min
        max := if spaced then (if s.st.nspace = 0 then d else Nat.max s.st.max d) else s.st.max
        parchg := if later ∧ q % 2 ≠ s.st.lastpar then s.st.parchg + 1 else s.st.parchg
        pcchg := if later ∧ pc ≠ s.st.lastpc then s.st.pcchg + 1 else s.st.pcchg
        pdchg := if later ∧ pd ≠ s.st.lastpd then s.st.pdchg + 1 else s.st.pdchg }
      result := 1 }

/-- R272: a stream with no Pa and Pb ahead of the cursor, or with a Pa in its last word only, ends the scan with Eof; the
statistics are unchanged. -/
def Obligations.ScanReportsEof : Prop :=
  ∀ s : State, Running s →
    (∀ j m, s.strm.pcmPos.toNat ≤ j → j + 1 < s.strm.pcmLen.toNat → ¬ PreambleAt s j m) →
    exec .scanFind s = .next { s with
      stat := { s.stat with status := s.stat.status ||| 4#3 }, strm := { s.strm with pcmPos := s.strm.pcmLen }
      sc := { s.sc with locked := false }, result := 0 }

/-- R275: a Pa and Pb whose Pc or Pd lies past the end of the stream raise ReadError with the position of the Pa. -/
def Obligations.ScanOfATruncatedPreamble : Prop :=
  ∀ (s : State) (q : Nat) (m : DataMode), Running s → s.strm.pcmPos.toNat ≤ q → q + 1 < s.strm.pcmLen.toNat →
    s.strm.pcmLen.toNat ≤ q + 3 → PreambleAt s q m →
    (∀ j m', s.strm.pcmPos.toNat ≤ j → j < q → ¬ PreambleAt s j m') →
    exec .scanFind s = .next (raisedState s 1 q)

/-- BURST.DEC copies ceil(SC_PD / SC_MODE) containers from PCM_POS to PAYOUT, all 32 bits of each, moves the cursor behind
them and drops the lock (R280, R281, R283); too short a stream raises ReadError with PCM_POS (R282). -/
def Obligations.BurstDecExtractsThePayload : Prop :=
  ∀ (s : State) (m : DataMode), Running s → s.sc.locked = true → s.sc.mode = some m →
    let pos := s.strm.pcmPos.toNat
    let nw := (s.sc.pd.toNat + m.bits - 1) / m.bits
    (pos + nw ≤ s.strm.pcmLen.toNat → ∃ t, exec .burstDec s = .next t ∧
      t = { s with
        payout := t.payout, result := BitVec.ofNat 32 nw
        strm := { s.strm with payoutLen := s.strm.payoutLen + nw, pcmPos := t.strm.pcmPos }
        sc := { s.sc with locked := false, decWords := t.sc.decWords, decBytes := t.sc.decBytes } } ∧
      t.payout.length = s.payout.length + nw ∧ t.payout.take s.payout.length = s.payout ∧
      (∀ j, j < nw → t.payout[s.payout.length + j]? = some (s.pcm.read (pos + j))) ∧
      t.strm.pcmPos.toNat = pos + nw ∧ t.sc.decWords.toNat = nw ∧
      t.sc.decBytes.toNat = nw * (s.conf.cw.toNat / 8)) ∧
    (s.strm.pcmLen.toNat < pos + nw → exec .burstDec s = .next (raisedState s 1 pos))

/-- "These are diagnostic only and never affect correctness" (R39, R277): whatever the ST_* registers hold, every operation but
CSR.RD ends in the same way, with the same state but for the ST_* registers. -/
def Obligations.StatisticsNeverAffectAnOperation : Prop :=
  ∀ (i : Instr) (s : State) (st : StatsRegs), (∀ a, i ≠ .csrRd a) →
    match exec i s with
    | .next t => ∃ st', exec i { s with st := st } = .next { t with st := st' }
    | .fault f => exec i { s with st := st } = .fault f
    | .refused r => exec i { s with st := st } = .refused r

/-- R261: a burst of BURST.ENC, copied to PCM behind any run of zero words, is found by SCAN.FIND, and BURST.DEC extracts
exactly the frameset's words, in the top 16 bits of the containers. `u` is the decoding machine; `p` is where the burst
starts in its PCM. -/
def Obligations.EncodedSetsAreDecoded : Prop :=
  ∀ (s t u : State) (p : Nat), s.cfg.wellFormed = true → Running s → exec .burstEnc s = .next t → Running t →
    Running u → u.cfg = s.cfg → u.strm.pcmPos.toNat ≤ p →
    (∀ j, u.strm.pcmPos.toNat ≤ j → j < p → u.pcm.read j = 0) →
    p + s.bsz.size.toNat ≤ u.strm.pcmLen.toNat →
    (∀ j, j < s.bsz.size.toNat → t.burstout[s.burstout.length + j]? = some (u.pcm.read (p + j))) →
    ∃ v w payload, exec .scanFind u = .next v ∧ exec .burstDec v = .next w ∧ w.payout = u.payout ++ payload ∧
      payload.map (fun c => c.toNat / 2 ^ 16) = (s.fsbuf.readList 0 s.fs.words).map BitVec.toNat ∧
      v.sc.type = (if s.fs.format = .ac3 then .ac3 else .eac3) ∧
      w.strm.pcmPos.toNat = p + 4 + s.fs.words ∧ w.faultFlag = false

/-- The same for a Dolby E frame: the decoder recovers DEFRAME[4 .. len), all 32 bits, under the mode it was sent in. -/
def Obligations.EncodedDolbyEIsDecoded : Prop :=
  ∀ (s t u : State) (len depth : Word32) (m : DataMode) (p : Nat), s.cfg.wellFormed = true → depth.toNat = m.bits →
    Running s → exec (.burstEncde len depth) s = .next t → Running t →
    Running u → u.cfg = s.cfg → u.strm.pcmPos.toNat ≤ p →
    (∀ j, u.strm.pcmPos.toNat ≤ j → j < p → u.pcm.read j = 0) →
    p + s.bsz.size.toNat ≤ u.strm.pcmLen.toNat →
    (∀ j, j < s.bsz.size.toNat → t.burstout[s.burstout.length + j]? = some (u.pcm.read (p + j))) →
    ∃ v w, exec .scanFind u = .next v ∧ exec .burstDec v = .next w ∧ v.sc.mode = some m ∧ v.sc.type = .dolbye ∧
      w.payout = u.payout ++ s.deframe.readList 4 (len.toNat - 4) ∧
      w.strm.pcmPos.toNat = p + len.toNat ∧ w.faultFlag = false

/-! ## What every step keeps -/

/-- Every step keeps every memory in its canonical form: indices strictly rising, no cell equal to what an unlisted element
reads as. The form, and the 0 of an unlisted element, are the model's own (assumption logs 6 and 7). -/
def Obligations.MemoriesStayCanonical : Prop := ∀ s t : State, MemoriesOk s → step s = .next t → MemoriesOk t

/-- R306, R22: every step keeps ES_POS even and within ES_LEN, and PCM_POS within PCM_LEN; and the start of a valid header,
to which FS.OFFER rewinds (R218), even and within ES_LEN. -/
def Obligations.CursorsStayInTheirStreams : Prop := ∀ s t : State, CursorsOk s → step s = .next t → CursorsOk t

/-- R132, R131: every step keeps the cursor of an initialised unpacker normalised and inside its buffer, and the buffer
inside DEBUF. -/
def Obligations.UnpackerCursorStaysNormalised : Prop := ∀ s t : State, UnpackerOk s → step s = .next t → UnpackerOk t

/-- Every step keeps the header registers inside their widths in LAYOUT (R33), a valid header one that the decoder can give,
and a valid burst size one of the table's. The model's choices in it: the configuration stands in the state and no step writes
it (assumption log 3), and H_FSCOD is as wide as the wider of L_FSCOD and L_EFSCOD (log 9). -/
def Obligations.HeaderAndBurstSizeStayLegal : Prop :=
  ∀ s t : State, s.cfg.wellFormed = true → step s = .next t →
    t.cfg = s.cfg ∧ (HeaderOk s → HeaderOk t) ∧ (BurstSizeOk s → BurstSizeOk t)

/-- R25, R29, R30, R276: every step keeps the output lengths, the container width, the fault latch and the lock
consistent. -/
def Obligations.StatusRegistersStayConsistent : Prop :=
  ∀ s t : State, step s = .next t →
    (OutputsOk s → OutputsOk t) ∧ (ConfOk s → ConfOk t) ∧ (LatchOk s → LatchOk t) ∧ (ScannerOk s → ScannerOk t)

/-- Every step from a consistent state that answers a next state leaves a consistent state: all the invariants together, from
any state that meets them. The canonical form of the memories (assumption logs 6 and 7), the widths of the registers sized from
LAYOUT (log 9), the configuration held in the state (log 3) and the conditions on it that are read by inference (log 13) are the
model's. -/
def Obligations.MachineInvariantIsKept : Prop := ∀ s t : State, MachineOk s → step s = .next t → MachineOk t

/-- All the invariants together hold in the state after reset, in which the machine has no fault latched and waits. The
model's choices in it: the empty port and the step that waits (assumption logs 1 and 2), a configuration at reset that is well
formed by construction (log 3), the empty inputs (log 5), and FRAME, FSBUF, DEBUF and BUOUT with nothing listed (log 6). -/
def Obligations.ResetStateIsConsistent : Prop :=
  MachineOk State.reset ∧ Running State.reset ∧ step State.reset = .next State.reset

/-- From a consistent state no command ends in a fault of the model: the model's own two faults (assumption log 12) are
unreachable. What is consistent includes the model's choices that MachineInvariantIsKept names. -/
def Obligations.NoModelFaultIsReachable : Prop := ∀ s : State, MachineOk s → Safe s
end

