-- ==== Sys2Proof/Laws/Memory.lean ====
section
/-!
SUPPORT. Laws of memories: read after write, the canonical form, and that equal reads of canonical memories are equal
data.
-/

namespace Sys2Proof.Machine.Memory

variable {w : Nat}

@[simp] theorem read_empty (a : Nat) : (empty w).read a = unlisted w := rfl

@[simp] theorem readCells_consCell_self (a : Nat) (v : BitVec w) (rest : List (Nat × BitVec w))
    (h : readCells rest a = unlisted w) : readCells (consCell a v rest) a = v := by
  unfold consCell
  split
  · rename_i hv; rw [h, hv]
  · simp [readCells]

theorem readCells_consCell_of_ne {a b : Nat} (v : BitVec w) (rest : List (Nat × BitVec w)) (h : b ≠ a) :
    readCells (consCell a v rest) b = readCells rest b := by
  unfold consCell
  split
  · rfl
  · simp [readCells, h]

/-- An index below every listed one is unlisted. -/
theorem readCells_of_lt {a : Nat} : ∀ {l : List (Nat × BitVec w)}, (∀ e ∈ l, a < e.1) → readCells l a = unlisted w
  | [], _ => rfl
  | (k, v) :: rest, h => by
    have hk : a < k := h (k, v) (by simp)
    simp only [readCells, if_neg (Nat.ne_of_lt hk)]
    exact readCells_of_lt fun e he => h e (by simp [he])

theorem read_writeCells_of_ne {a b : Nat} (v : BitVec w) (h : b ≠ a) :
    ∀ l : List (Nat × BitVec w), readCells (writeCells l a v) b = readCells l b
  | [] => readCells_consCell_of_ne v [] h
  | (k, x) :: rest => by
    unfold writeCells
    split
    · exact readCells_consCell_of_ne v _ h
    · split
      · rename_i hak
        rw [readCells_consCell_of_ne v rest h, ← hak]
        simp [readCells, h]
      · simp only [readCells, read_writeCells_of_ne v h rest]

/-- A write leaves every other element alone. -/
theorem read_write_of_ne (m : Memory w) {a b : Nat} (v : BitVec w) (h : b ≠ a) : (m.write a v).read b = m.read b :=
  read_writeCells_of_ne v h m.cells

theorem forall_lt_of_pairwise {k : Nat} {x : BitVec w} {rest : List (Nat × BitVec w)}
    (h : (((k, x) :: rest).map Prod.fst).Pairwise (· < ·)) : ∀ e ∈ rest, k < e.1 := by
  intro e he
  simp only [List.map_cons, List.pairwise_cons] at h
  exact h.1 e.1 (List.mem_map_of_mem he)

theorem read_writeCells_self (a : Nat) (v : BitVec w) :
    ∀ l : List (Nat × BitVec w), (l.map Prod.fst).Pairwise (· < ·) → readCells (writeCells l a v) a = v
  | [], _ => readCells_consCell_self a v [] rfl
  | (k, x) :: rest, h => by
    have hlt := forall_lt_of_pairwise h
    unfold writeCells
    split
    · rename_i hak
      refine readCells_consCell_self a v _ (readCells_of_lt ?_)
      intro e he
      rcases List.mem_cons.1 he with rfl | he
      · exact hak
      · exact Nat.lt_trans hak (hlt e he)
    · split
      · rename_i hak
        exact readCells_consCell_self a v rest (readCells_of_lt fun e he => hak ▸ hlt e he)
      · rename_i hak
        simp only [readCells, if_neg hak]
        exact read_writeCells_self a v rest (List.Pairwise.of_cons h)

/-- A read after a write to the same element of a canonical memory gives the value written. -/
theorem read_write_self {m : Memory w} (h : m.wf) (a : Nat) (v : BitVec w) : (m.write a v).read a = v :=
  read_writeCells_self a v m.cells h.1

/-- A write to a canonical memory, read anywhere. -/
theorem read_write {m : Memory w} (h : m.wf) (a b : Nat) (v : BitVec w) :
    (m.write a v).read b = if b = a then v else m.read b := by
  split
  · rename_i hb; rw [hb, read_write_self h]
  · rename_i hb; exact read_write_of_ne m v hb

/-! ### The canonical form -/

theorem mem_writeCells {a : Nat} {v : BitVec w} {e : Nat × BitVec w} :
    ∀ {l : List (Nat × BitVec w)}, e ∈ writeCells l a v → e ∈ l ∨ (e = (a, v) ∧ v ≠ unlisted w)
  | [], h => by
    unfold writeCells consCell at h
    split at h <;> simp_all
  | (k, x) :: rest, h => by
    unfold writeCells at h
    split at h
    · unfold consCell at h
      split at h
      · exact .inl h
      · rcases List.mem_cons.1 h with h | h
        · exact .inr ⟨h, by assumption⟩
        · exact .inl h
    · split at h
      · unfold consCell at h
        split at h
        · exact .inl (List.mem_cons_of_mem _ h)
        · rcases List.mem_cons.1 h with h | h
          · exact .inr ⟨h, by assumption⟩
          · exact .inl (List.mem_cons_of_mem _ h)
      · rcases List.mem_cons.1 h with h | h
        · exact .inl (h ▸ List.mem_cons_self ..)
        · rcases mem_writeCells h with h | h
          · exact .inl (List.mem_cons_of_mem _ h)
          · exact .inr h

theorem pairwise_consCell {a : Nat} {v : BitVec w} {rest : List (Nat × BitVec w)} (hlt : ∀ e ∈ rest, a < e.1)
    (h : (rest.map Prod.fst).Pairwise (· < ·)) : ((consCell a v rest).map Prod.fst).Pairwise (· < ·) := by
  unfold consCell
  split
  · exact h
  · refine List.pairwise_cons.2 ⟨?_, h⟩
    intro k hk
    obtain ⟨e, he, rfl⟩ := List.mem_map.1 hk
    exact hlt e he

theorem pairwise_writeCells (a : Nat) (v : BitVec w) :
    ∀ l : List (Nat × BitVec w), (l.map Prod.fst).Pairwise (· < ·) → ((writeCells l a v).map Prod.fst).Pairwise (· < ·)
  | [], h => pairwise_consCell (by simp) h
  | (k, x) :: rest, h => by
    have hlt := forall_lt_of_pairwise h
    unfold writeCells
    split
    · rename_i hak
      refine pairwise_consCell ?_ h
      intro e he
      rcases List.mem_cons.1 he with rfl | he
      · exact hak
      · exact Nat.lt_trans hak (hlt e he)
    · split
      · rename_i hak
        exact pairwise_consCell (fun e he => hak ▸ hlt e he) (List.Pairwise.of_cons h)
      · rename_i h1 h2
        refine List.pairwise_cons.2 ⟨?_, pairwise_writeCells a v rest (List.Pairwise.of_cons h)⟩
        intro j hj
        obtain ⟨e, he, rfl⟩ := List.mem_map.1 hj
        rcases mem_writeCells he with he | ⟨rfl, -⟩
        · exact hlt e he
        · show k < a
          omega

theorem wf_empty : (empty w).wf := ⟨List.Pairwise.nil, by simp [empty]⟩

/-- A write keeps the canonical form. -/
theorem wf_write {m : Memory w} (h : m.wf) (a : Nat) (v : BitVec w) : (m.write a v).wf := by
  refine ⟨pairwise_writeCells a v m.cells h.1, ?_⟩
  intro e he
  rcases mem_writeCells he with he | ⟨rfl, hv⟩
  · exact h.2 e he
  · exact hv

/-- A block write keeps the canonical form. -/
theorem wf_writeList : ∀ {m : Memory w} (_ : m.wf) (a : Nat) (vs : List (BitVec w)), (m.writeList a vs).wf
  | _, h, _, [] => h
  | _, h, a, v :: vs => wf_writeList (wf_write h a v) (a + 1) vs

theorem wf_ofList (vs : List (BitVec w)) : (ofList vs).wf := wf_writeList wf_empty 0 vs

/-! ### Block reads and writes -/

@[simp] theorem length_readList (m : Memory w) (a n : Nat) : (m.readList a n).length = n := by simp [readList]

theorem getElem_readList (m : Memory w) (a n i : Nat) (h : i < (m.readList a n).length) :
    (m.readList a n)[i] = m.read (a + i) := by
  simp [readList]

theorem getElem?_readList (m : Memory w) (a n i : Nat) :
    (m.readList a n)[i]? = if i < n then some (m.read (a + i)) else none := by
  split
  · rename_i h; simp [readList, h]
  · rename_i h; simp [readList, h]

theorem read_writeList_of_lt : ∀ {m : Memory w} {a b : Nat} (vs : List (BitVec w)), b < a →
    (m.writeList a vs).read b = m.read b
  | _, _, _, [], _ => rfl
  | m, a, b, v :: vs, h => by
    rw [writeList, read_writeList_of_lt vs (by omega), read_write_of_ne m v (by omega)]

/-- A block write to a canonical memory, read anywhere. -/
theorem read_writeList : ∀ {m : Memory w} (_ : m.wf) (a b : Nat) (vs : List (BitVec w)),
    (m.writeList a vs).read b = if a ≤ b then vs.getD (b - a) (m.read b) else m.read b
  | m, _, a, b, [] => by simp [writeList]
  | m, h, a, b, v :: vs => by
    rw [writeList]
    by_cases hb : b < a + 1
    · rw [read_writeList_of_lt vs hb, read_write h]
      by_cases hab : b = a
      · simp [hab]
      · have : ¬ a ≤ b := by omega
        simp [hab, this]
    · rw [read_writeList (wf_write h a v), read_write_of_ne m v (by omega)]
      have h1 : a + 1 ≤ b := by omega
      have h2 : a ≤ b := by omega
      obtain ⟨d, rfl⟩ : ∃ d, b = a + 1 + d := ⟨b - (a + 1), by omega⟩
      have h3 : a + 1 + d - a = d + 1 := by omega
      simp [h1, h2, h3]

/-- A block copied from another memory, read anywhere. -/
theorem read_writeList_readList {m : Memory w} (h : m.wf) (m' : Memory w) (a a' n b : Nat) :
    (m.writeList a (m'.readList a' n)).read b = if a ≤ b ∧ b < a + n then m'.read (a' + (b - a)) else m.read b := by
  rw [read_writeList h]
  by_cases hb : a ≤ b
  · by_cases hn : b < a + n
    · rw [if_pos hb, if_pos ⟨hb, hn⟩, List.getD_eq_getElem?_getD, getElem?_readList, if_pos (by omega)]
      rfl
    · rw [if_pos hb, if_neg (by omega), List.getD_eq_getElem?_getD, getElem?_readList, if_neg (by omega)]
      rfl
  · rw [if_neg hb, if_neg (by omega)]

/-- A memory that holds a list, read anywhere. -/
theorem read_ofList (vs : List (BitVec w)) (a : Nat) : (ofList vs).read a = vs.getD a (unlisted w) := by
  rw [ofList, read_writeList wf_empty]
  simp

/-! ### Equal reads are equal data -/

theorem readCells_cons_ne {k a : Nat} {x : BitVec w} {rest : List (Nat × BitVec w)} (h : a ≠ k) :
    readCells ((k, x) :: rest) a = readCells rest a := by
  simp [readCells, h]

theorem cells_ext : ∀ {l l' : List (Nat × BitVec w)},
    (l.map Prod.fst).Pairwise (· < ·) → (∀ e ∈ l, e.2 ≠ unlisted w) →
    (l'.map Prod.fst).Pairwise (· < ·) → (∀ e ∈ l', e.2 ≠ unlisted w) →
    (∀ a, readCells l a = readCells l' a) → l = l'
  | [], [], _, _, _, _, _ => rfl
  | [], (k, x) :: r, _, _, _, h', he => by
    have := he k
    simp only [readCells, if_true] at this
    exact absurd this.symm (h' (k, x) (by simp))
  | (k, x) :: r, [], _, h, _, _, he => by
    have := he k
    simp only [readCells, if_true] at this
    exact absurd this (h (k, x) (by simp))
  | (k, x) :: r, (k', x') :: r', p, h, p', h', he => by
    have hr := forall_lt_of_pairwise p
    have hr' := forall_lt_of_pairwise p'
    have hk : k = k' := by
      by_contra hne
      rcases Nat.lt_or_gt_of_ne hne with hlt | hlt
      · have := he k
        rw [readCells_cons_ne hne, readCells_of_lt (l := r') fun e hm => Nat.lt_trans hlt (hr' e hm)] at this
        simp only [readCells, if_true] at this
        exact h (k, x) (by simp) this
      · have := he k'
        rw [readCells_cons_ne (Ne.symm hne), readCells_of_lt (l := r) fun e hm => Nat.lt_trans hlt (hr e hm)] at this
        simp only [readCells, if_true] at this
        exact h' (k', x') (by simp) this.symm
    subst hk
    have hx : x = x' := by
      have := he k
      simpa only [readCells, if_true] using this
    subst hx
    rw [cells_ext (List.Pairwise.of_cons p) (fun e hm => h e (by simp [hm])) (List.Pairwise.of_cons p')
      (fun e hm => h' e (by simp [hm]))]
    intro a
    by_cases ha : a = k
    · rw [ha, readCells_of_lt hr, readCells_of_lt hr']
    · have := he a
      rwa [readCells_cons_ne ha, readCells_cons_ne ha] at this

/-- Canonical memories that read the same are the same data. -/
theorem ext_of_read {m m' : Memory w} (h : m.wf) (h' : m'.wf) (he : ∀ a, m.read a = m'.read a) : m = m' := by
  cases m
  cases m'
  exact congrArg Memory.mk (cells_ext h.1 h.2 h'.1 h'.2 he)

end Sys2Proof.Machine.Memory
end

