-- ==== Sys2Proof/Laws/State.lean ====
section
/-!
SUPPORT. What each shared update of the state leaves in each field: one lemma per field per update, true by `rfl`, so
that no proof unfolds a record update.
-/

namespace Sys2Proof.Laws

open Sys2Proof.Machine

variable (s : State)

/-! ## raise k i: raise (R325) -/

@[simp] theorem raise_cfg (k : ErrKind) (i : Nat) : (s.raise k i).cfg = s.cfg := rfl
@[simp] theorem raise_port (k : ErrKind) (i : Nat) : (s.raise k i).port = s.port := rfl
@[simp] theorem raise_result (k : ErrKind) (i : Nat) : (s.raise k i).result = 0 := rfl
@[simp] theorem raise_conf (k : ErrKind) (i : Nat) : (s.raise k i).conf = s.conf := rfl
@[simp] theorem raise_stat (k : ErrKind) (i : Nat) : (s.raise k i).stat =
    { s.stat with status := statusSetFault s.stat.status, errCode := k.code, errInfo := BitVec.ofNat 32 i } := rfl
@[simp] theorem raise_strm (k : ErrKind) (i : Nat) : (s.raise k i).strm = s.strm := rfl
@[simp] theorem raise_bu (k : ErrKind) (i : Nat) : (s.raise k i).bu = s.bu := rfl
@[simp] theorem raise_hdr (k : ErrKind) (i : Nat) : (s.raise k i).hdr = s.hdr := rfl
@[simp] theorem raise_de (k : ErrKind) (i : Nat) : (s.raise k i).de = s.de := rfl
@[simp] theorem raise_bsz (k : ErrKind) (i : Nat) : (s.raise k i).bsz = s.bsz := rfl
@[simp] theorem raise_fs (k : ErrKind) (i : Nat) : (s.raise k i).fs = s.fs := rfl
@[simp] theorem raise_sc (k : ErrKind) (i : Nat) : (s.raise k i).sc = s.sc := rfl
@[simp] theorem raise_st (k : ErrKind) (i : Nat) : (s.raise k i).st = s.st := rfl
@[simp] theorem raise_es (k : ErrKind) (i : Nat) : (s.raise k i).es = s.es := rfl
@[simp] theorem raise_frame (k : ErrKind) (i : Nat) : (s.raise k i).frame = s.frame := rfl
@[simp] theorem raise_fsbuf (k : ErrKind) (i : Nat) : (s.raise k i).fsbuf = s.fsbuf := rfl
@[simp] theorem raise_deframe (k : ErrKind) (i : Nat) : (s.raise k i).deframe = s.deframe := rfl
@[simp] theorem raise_debuf (k : ErrKind) (i : Nat) : (s.raise k i).debuf = s.debuf := rfl
@[simp] theorem raise_buout (k : ErrKind) (i : Nat) : (s.raise k i).buout = s.buout := rfl
@[simp] theorem raise_burstout (k : ErrKind) (i : Nat) : (s.raise k i).burstout = s.burstout := rfl
@[simp] theorem raise_pcm (k : ErrKind) (i : Nat) : (s.raise k i).pcm = s.pcm := rfl
@[simp] theorem raise_payout (k : ErrKind) (i : Nat) : (s.raise k i).payout = s.payout := rfl

/-! ## warn: warn (R331) -/

@[simp] theorem warn_cfg : (s.warn).cfg = s.cfg := rfl
@[simp] theorem warn_port : (s.warn).port = s.port := rfl
@[simp] theorem warn_result : (s.warn).result = s.result := rfl
@[simp] theorem warn_conf : (s.warn).conf = s.conf := rfl
@[simp] theorem warn_stat : (s.warn).stat =
    { s.stat with status := statusSetWarn s.stat.status, warnCount := s.stat.warnCount + 1 } := rfl
@[simp] theorem warn_strm : (s.warn).strm = s.strm := rfl
@[simp] theorem warn_bu : (s.warn).bu = s.bu := rfl
@[simp] theorem warn_hdr : (s.warn).hdr = s.hdr := rfl
@[simp] theorem warn_de : (s.warn).de = s.de := rfl
@[simp] theorem warn_bsz : (s.warn).bsz = s.bsz := rfl
@[simp] theorem warn_fs : (s.warn).fs = s.fs := rfl
@[simp] theorem warn_sc : (s.warn).sc = s.sc := rfl
@[simp] theorem warn_st : (s.warn).st = s.st := rfl
@[simp] theorem warn_es : (s.warn).es = s.es := rfl
@[simp] theorem warn_frame : (s.warn).frame = s.frame := rfl
@[simp] theorem warn_fsbuf : (s.warn).fsbuf = s.fsbuf := rfl
@[simp] theorem warn_deframe : (s.warn).deframe = s.deframe := rfl
@[simp] theorem warn_debuf : (s.warn).debuf = s.debuf := rfl
@[simp] theorem warn_buout : (s.warn).buout = s.buout := rfl
@[simp] theorem warn_burstout : (s.warn).burstout = s.burstout := rfl
@[simp] theorem warn_pcm : (s.warn).pcm = s.pcm := rfl
@[simp] theorem warn_payout : (s.warn).payout = s.payout := rfl

/-! ## noOp: a command while the fault is latched (R327) -/

@[simp] theorem noOp_cfg : (s.noOp).cfg = s.cfg := rfl
@[simp] theorem noOp_port : (s.noOp).port = s.port := rfl
@[simp] theorem noOp_result : (s.noOp).result = 0 := rfl
@[simp] theorem noOp_conf : (s.noOp).conf = s.conf := rfl
@[simp] theorem noOp_stat : (s.noOp).stat = s.stat := rfl
@[simp] theorem noOp_strm : (s.noOp).strm = s.strm := rfl
@[simp] theorem noOp_bu : (s.noOp).bu = s.bu := rfl
@[simp] theorem noOp_hdr : (s.noOp).hdr = s.hdr := rfl
@[simp] theorem noOp_de : (s.noOp).de = s.de := rfl
@[simp] theorem noOp_bsz : (s.noOp).bsz = s.bsz := rfl
@[simp] theorem noOp_fs : (s.noOp).fs = s.fs := rfl
@[simp] theorem noOp_sc : (s.noOp).sc = s.sc := rfl
@[simp] theorem noOp_st : (s.noOp).st = s.st := rfl
@[simp] theorem noOp_es : (s.noOp).es = s.es := rfl
@[simp] theorem noOp_frame : (s.noOp).frame = s.frame := rfl
@[simp] theorem noOp_fsbuf : (s.noOp).fsbuf = s.fsbuf := rfl
@[simp] theorem noOp_deframe : (s.noOp).deframe = s.deframe := rfl
@[simp] theorem noOp_debuf : (s.noOp).debuf = s.debuf := rfl
@[simp] theorem noOp_buout : (s.noOp).buout = s.buout := rfl
@[simp] theorem noOp_burstout : (s.noOp).burstout = s.burstout := rfl
@[simp] theorem noOp_pcm : (s.noOp).pcm = s.pcm := rfl
@[simp] theorem noOp_payout : (s.noOp).payout = s.payout := rfl

/-! ## setEof b: the EOF bit (R28) -/

@[simp] theorem setEof_cfg (b : Bool) : (s.setEof b).cfg = s.cfg := rfl
@[simp] theorem setEof_port (b : Bool) : (s.setEof b).port = s.port := rfl
@[simp] theorem setEof_result (b : Bool) : (s.setEof b).result = s.result := rfl
@[simp] theorem setEof_conf (b : Bool) : (s.setEof b).conf = s.conf := rfl
@[simp] theorem setEof_stat (b : Bool) : (s.setEof b).stat =
    { s.stat with status := statusWriteEof s.stat.status b } := rfl
@[simp] theorem setEof_strm (b : Bool) : (s.setEof b).strm = s.strm := rfl
@[simp] theorem setEof_bu (b : Bool) : (s.setEof b).bu = s.bu := rfl
@[simp] theorem setEof_hdr (b : Bool) : (s.setEof b).hdr = s.hdr := rfl
@[simp] theorem setEof_de (b : Bool) : (s.setEof b).de = s.de := rfl
@[simp] theorem setEof_bsz (b : Bool) : (s.setEof b).bsz = s.bsz := rfl
@[simp] theorem setEof_fs (b : Bool) : (s.setEof b).fs = s.fs := rfl
@[simp] theorem setEof_sc (b : Bool) : (s.setEof b).sc = s.sc := rfl
@[simp] theorem setEof_st (b : Bool) : (s.setEof b).st = s.st := rfl
@[simp] theorem setEof_es (b : Bool) : (s.setEof b).es = s.es := rfl
@[simp] theorem setEof_frame (b : Bool) : (s.setEof b).frame = s.frame := rfl
@[simp] theorem setEof_fsbuf (b : Bool) : (s.setEof b).fsbuf = s.fsbuf := rfl
@[simp] theorem setEof_deframe (b : Bool) : (s.setEof b).deframe = s.deframe := rfl
@[simp] theorem setEof_debuf (b : Bool) : (s.setEof b).debuf = s.debuf := rfl
@[simp] theorem setEof_buout (b : Bool) : (s.setEof b).buout = s.buout := rfl
@[simp] theorem setEof_burstout (b : Bool) : (s.setEof b).burstout = s.burstout := rfl
@[simp] theorem setEof_pcm (b : Bool) : (s.setEof b).pcm = s.pcm := rfl
@[simp] theorem setEof_payout (b : Bool) : (s.setEof b).payout = s.payout := rfl

/-! ## enterReset: the reset state (R360) -/

@[simp] theorem enterReset_cfg : (s.enterReset).cfg = s.cfg := rfl
@[simp] theorem enterReset_port : (s.enterReset).port = s.port := rfl
@[simp] theorem enterReset_result : (s.enterReset).result = 0 := rfl
@[simp] theorem enterReset_conf : (s.enterReset).conf = ConfRegs.reset := rfl
@[simp] theorem enterReset_stat : (s.enterReset).stat = StatRegs.reset := rfl
@[simp] theorem enterReset_strm : (s.enterReset).strm =
    { StreamRegs.reset with esLen := s.strm.esLen, pcmLen := s.strm.pcmLen } := rfl
@[simp] theorem enterReset_bu : (s.enterReset).bu = BuRegs.reset := rfl
@[simp] theorem enterReset_hdr : (s.enterReset).hdr = HdrRegs.reset := rfl
@[simp] theorem enterReset_de : (s.enterReset).de = DeRegs.reset := rfl
@[simp] theorem enterReset_bsz : (s.enterReset).bsz = BszRegs.reset := rfl
@[simp] theorem enterReset_fs : (s.enterReset).fs = FsRegs.reset := rfl
@[simp] theorem enterReset_sc : (s.enterReset).sc = ScanRegs.reset := rfl
@[simp] theorem enterReset_st : (s.enterReset).st = StatsRegs.reset := rfl
@[simp] theorem enterReset_es : (s.enterReset).es = s.es := rfl
@[simp] theorem enterReset_frame : (s.enterReset).frame = Memory.empty 16 := rfl
@[simp] theorem enterReset_fsbuf : (s.enterReset).fsbuf = Memory.empty 16 := rfl
@[simp] theorem enterReset_deframe : (s.enterReset).deframe = s.deframe := rfl
@[simp] theorem enterReset_debuf : (s.enterReset).debuf = Memory.empty 32 := rfl
@[simp] theorem enterReset_buout : (s.enterReset).buout = Memory.empty 32 := rfl
@[simp] theorem enterReset_burstout : (s.enterReset).burstout = [] := rfl
@[simp] theorem enterReset_pcm : (s.enterReset).pcm = s.pcm := rfl
@[simp] theorem enterReset_payout : (s.enterReset).payout = [] := rfl

/-! ## presentCommand w: the host presents a command (R8) -/

@[simp] theorem presentCommand_cfg (w : CmdWord) : (s.presentCommand w).cfg = s.cfg := rfl
@[simp] theorem presentCommand_port (w : CmdWord) : (s.presentCommand w).port = w :: s.port.tail := rfl
@[simp] theorem presentCommand_result (w : CmdWord) : (s.presentCommand w).result = s.result := rfl
@[simp] theorem presentCommand_conf (w : CmdWord) : (s.presentCommand w).conf = s.conf := rfl
@[simp] theorem presentCommand_stat (w : CmdWord) : (s.presentCommand w).stat = s.stat := rfl
@[simp] theorem presentCommand_strm (w : CmdWord) : (s.presentCommand w).strm = s.strm := rfl
@[simp] theorem presentCommand_bu (w : CmdWord) : (s.presentCommand w).bu = s.bu := rfl
@[simp] theorem presentCommand_hdr (w : CmdWord) : (s.presentCommand w).hdr = s.hdr := rfl
@[simp] theorem presentCommand_de (w : CmdWord) : (s.presentCommand w).de = s.de := rfl
@[simp] theorem presentCommand_bsz (w : CmdWord) : (s.presentCommand w).bsz = s.bsz := rfl
@[simp] theorem presentCommand_fs (w : CmdWord) : (s.presentCommand w).fs = s.fs := rfl
@[simp] theorem presentCommand_sc (w : CmdWord) : (s.presentCommand w).sc = s.sc := rfl
@[simp] theorem presentCommand_st (w : CmdWord) : (s.presentCommand w).st = s.st := rfl
@[simp] theorem presentCommand_es (w : CmdWord) : (s.presentCommand w).es = s.es := rfl
@[simp] theorem presentCommand_frame (w : CmdWord) : (s.presentCommand w).frame = s.frame := rfl
@[simp] theorem presentCommand_fsbuf (w : CmdWord) : (s.presentCommand w).fsbuf = s.fsbuf := rfl
@[simp] theorem presentCommand_deframe (w : CmdWord) : (s.presentCommand w).deframe = s.deframe := rfl
@[simp] theorem presentCommand_debuf (w : CmdWord) : (s.presentCommand w).debuf = s.debuf := rfl
@[simp] theorem presentCommand_buout (w : CmdWord) : (s.presentCommand w).buout = s.buout := rfl
@[simp] theorem presentCommand_burstout (w : CmdWord) : (s.presentCommand w).burstout = s.burstout := rfl
@[simp] theorem presentCommand_pcm (w : CmdWord) : (s.presentCommand w).pcm = s.pcm := rfl
@[simp] theorem presentCommand_payout (w : CmdWord) : (s.presentCommand w).payout = s.payout := rfl

/-! ## commitEof s: the Eof condition of the header unit (R153) -/

@[simp] theorem commitEof_cfg : (commitEof s).cfg = s.cfg := rfl
@[simp] theorem commitEof_port : (commitEof s).port = s.port := rfl
@[simp] theorem commitEof_result : (commitEof s).result = 0 := rfl
@[simp] theorem commitEof_conf : (commitEof s).conf = s.conf := rfl
@[simp] theorem commitEof_stat : (commitEof s).stat =
    { s.stat with status := statusWriteEof s.stat.status true } := rfl
@[simp] theorem commitEof_strm : (commitEof s).strm = s.strm := rfl
@[simp] theorem commitEof_bu : (commitEof s).bu = s.bu := rfl
@[simp] theorem commitEof_hdr : (commitEof s).hdr =
    { s.hdr with valid := false, frameValid := false, tcSeen := false, stop := .eos, consumed := 0 } := rfl
@[simp] theorem commitEof_de : (commitEof s).de = s.de := rfl
@[simp] theorem commitEof_bsz : (commitEof s).bsz = s.bsz := rfl
@[simp] theorem commitEof_fs : (commitEof s).fs = s.fs := rfl
@[simp] theorem commitEof_sc : (commitEof s).sc = s.sc := rfl
@[simp] theorem commitEof_st : (commitEof s).st = s.st := rfl
@[simp] theorem commitEof_es : (commitEof s).es = s.es := rfl
@[simp] theorem commitEof_frame : (commitEof s).frame = s.frame := rfl
@[simp] theorem commitEof_fsbuf : (commitEof s).fsbuf = s.fsbuf := rfl
@[simp] theorem commitEof_deframe : (commitEof s).deframe = s.deframe := rfl
@[simp] theorem commitEof_debuf : (commitEof s).debuf = s.debuf := rfl
@[simp] theorem commitEof_buout : (commitEof s).buout = s.buout := rfl
@[simp] theorem commitEof_burstout : (commitEof s).burstout = s.burstout := rfl
@[simp] theorem commitEof_pcm : (commitEof s).pcm = s.pcm := rfl
@[simp] theorem commitEof_payout : (commitEof s).payout = s.payout := rfl

/-! ## commitPosition s v: what every header commit writes (R167) -/

@[simp] theorem commitPosition_cfg (v : ParseVars) : (commitPosition s v).cfg = s.cfg := rfl
@[simp] theorem commitPosition_port (v : ParseVars) : (commitPosition s v).port = s.port := rfl
@[simp] theorem commitPosition_result (v : ParseVars) : (commitPosition s v).result = s.result := rfl
@[simp] theorem commitPosition_conf (v : ParseVars) : (commitPosition s v).conf = s.conf := rfl
@[simp] theorem commitPosition_stat (v : ParseVars) : (commitPosition s v).stat =
    { s.stat with status := statusWriteEof s.stat.status false } := rfl
@[simp] theorem commitPosition_strm (v : ParseVars) : (commitPosition s v).strm =
    { s.strm with esPos := BitVec.ofNat 32 v.p } := rfl
@[simp] theorem commitPosition_bu (v : ParseVars) : (commitPosition s v).bu = s.bu := rfl
@[simp] theorem commitPosition_hdr (v : ParseVars) : (commitPosition s v).hdr =
    { s.hdr with tcSeen := v.tcSeen, stop := v.stop, consumed := v.p - s.strm.esPos.toNat } := rfl
@[simp] theorem commitPosition_de (v : ParseVars) : (commitPosition s v).de = s.de := rfl
@[simp] theorem commitPosition_bsz (v : ParseVars) : (commitPosition s v).bsz = s.bsz := rfl
@[simp] theorem commitPosition_fs (v : ParseVars) : (commitPosition s v).fs = s.fs := rfl
@[simp] theorem commitPosition_sc (v : ParseVars) : (commitPosition s v).sc = s.sc := rfl
@[simp] theorem commitPosition_st (v : ParseVars) : (commitPosition s v).st = s.st := rfl
@[simp] theorem commitPosition_es (v : ParseVars) : (commitPosition s v).es = s.es := rfl
@[simp] theorem commitPosition_frame (v : ParseVars) : (commitPosition s v).frame = s.frame := rfl
@[simp] theorem commitPosition_fsbuf (v : ParseVars) : (commitPosition s v).fsbuf = s.fsbuf := rfl
@[simp] theorem commitPosition_deframe (v : ParseVars) : (commitPosition s v).deframe = s.deframe := rfl
@[simp] theorem commitPosition_debuf (v : ParseVars) : (commitPosition s v).debuf = s.debuf := rfl
@[simp] theorem commitPosition_buout (v : ParseVars) : (commitPosition s v).buout = s.buout := rfl
@[simp] theorem commitPosition_burstout (v : ParseVars) : (commitPosition s v).burstout = s.burstout := rfl
@[simp] theorem commitPosition_pcm (v : ParseVars) : (commitPosition s v).pcm = s.pcm := rfl
@[simp] theorem commitPosition_payout (v : ParseVars) : (commitPosition s v).payout = s.payout := rfl

/-! ## shortFlush s: the short flush (R217, R218) -/

@[simp] theorem shortFlush_cfg : (shortFlush s).cfg = s.cfg := rfl
@[simp] theorem shortFlush_port : (shortFlush s).port = s.port := rfl
@[simp] theorem shortFlush_result : (shortFlush s).result = BitVec.ofNat 32 2 := rfl
@[simp] theorem shortFlush_conf : (shortFlush s).conf = s.conf := rfl
@[simp] theorem shortFlush_stat : (shortFlush s).stat = s.stat := rfl
@[simp] theorem shortFlush_strm : (shortFlush s).strm = { s.strm with esPos := s.hdr.start } := rfl
@[simp] theorem shortFlush_bu : (shortFlush s).bu = s.bu := rfl
@[simp] theorem shortFlush_hdr : (shortFlush s).hdr = consumeFrame s.hdr := rfl
@[simp] theorem shortFlush_de : (shortFlush s).de = s.de := rfl
@[simp] theorem shortFlush_bsz : (shortFlush s).bsz = s.bsz := rfl
@[simp] theorem shortFlush_fs : (shortFlush s).fs = { s.fs with state := .flushedShort } := rfl
@[simp] theorem shortFlush_sc : (shortFlush s).sc = s.sc := rfl
@[simp] theorem shortFlush_st : (shortFlush s).st = s.st := rfl
@[simp] theorem shortFlush_es : (shortFlush s).es = s.es := rfl
@[simp] theorem shortFlush_frame : (shortFlush s).frame = s.frame := rfl
@[simp] theorem shortFlush_fsbuf : (shortFlush s).fsbuf = s.fsbuf := rfl
@[simp] theorem shortFlush_deframe : (shortFlush s).deframe = s.deframe := rfl
@[simp] theorem shortFlush_debuf : (shortFlush s).debuf = s.debuf := rfl
@[simp] theorem shortFlush_buout : (shortFlush s).buout = s.buout := rfl
@[simp] theorem shortFlush_burstout : (shortFlush s).burstout = s.burstout := rfl
@[simp] theorem shortFlush_pcm : (shortFlush s).pcm = s.pcm := rfl
@[simp] theorem shortFlush_payout : (shortFlush s).payout = s.payout := rfl

/-! ## appendFrame s: the append (R216, R221) -/

@[simp] theorem appendFrame_cfg : (appendFrame s).cfg = s.cfg := rfl
@[simp] theorem appendFrame_port : (appendFrame s).port = s.port := rfl
@[simp] theorem appendFrame_result : (appendFrame s).result =
    BitVec.ofNat 32 (appendRegs s.fs s.hdr).state.code := rfl
@[simp] theorem appendFrame_conf : (appendFrame s).conf = s.conf := rfl
@[simp] theorem appendFrame_stat : (appendFrame s).stat = s.stat := rfl
@[simp] theorem appendFrame_strm : (appendFrame s).strm = s.strm := rfl
@[simp] theorem appendFrame_bu : (appendFrame s).bu = s.bu := rfl
@[simp] theorem appendFrame_hdr : (appendFrame s).hdr = consumeFrame s.hdr := rfl
@[simp] theorem appendFrame_de : (appendFrame s).de = s.de := rfl
@[simp] theorem appendFrame_bsz : (appendFrame s).bsz = s.bsz := rfl
@[simp] theorem appendFrame_fs : (appendFrame s).fs = appendRegs s.fs s.hdr := rfl
@[simp] theorem appendFrame_sc : (appendFrame s).sc = s.sc := rfl
@[simp] theorem appendFrame_st : (appendFrame s).st = s.st := rfl
@[simp] theorem appendFrame_es : (appendFrame s).es = s.es := rfl
@[simp] theorem appendFrame_frame : (appendFrame s).frame = s.frame := rfl
@[simp] theorem appendFrame_fsbuf : (appendFrame s).fsbuf =
    s.fsbuf.writeList s.fs.words (s.frame.readList 0 s.hdr.frameWords.toNat) := rfl
@[simp] theorem appendFrame_deframe : (appendFrame s).deframe = s.deframe := rfl
@[simp] theorem appendFrame_debuf : (appendFrame s).debuf = s.debuf := rfl
@[simp] theorem appendFrame_buout : (appendFrame s).buout = s.buout := rfl
@[simp] theorem appendFrame_burstout : (appendFrame s).burstout = s.burstout := rfl
@[simp] theorem appendFrame_pcm : (appendFrame s).pcm = s.pcm := rfl
@[simp] theorem appendFrame_payout : (appendFrame s).payout = s.payout := rfl

/-! ## appendBurst s b cw: Append(BURSTOUT, burst) (R241) -/

@[simp] theorem appendBurst_cfg (b : List Container) (cw : BitVec 6) : (appendBurst s b cw).cfg = s.cfg := rfl
@[simp] theorem appendBurst_port (b : List Container) (cw : BitVec 6) : (appendBurst s b cw).port = s.port := rfl
@[simp] theorem appendBurst_result (b : List Container) (cw : BitVec 6) : (appendBurst s b cw).result =
    s.bsz.size := rfl
@[simp] theorem appendBurst_conf (b : List Container) (cw : BitVec 6) : (appendBurst s b cw).conf = s.conf := rfl
@[simp] theorem appendBurst_stat (b : List Container) (cw : BitVec 6) : (appendBurst s b cw).stat = s.stat := rfl
@[simp] theorem appendBurst_strm (b : List Container) (cw : BitVec 6) : (appendBurst s b cw).strm =
    { s.strm with burstoutLen := s.strm.burstoutLen + s.bsz.size.toNat, outCw := cw } := rfl
@[simp] theorem appendBurst_bu (b : List Container) (cw : BitVec 6) : (appendBurst s b cw).bu = s.bu := rfl
@[simp] theorem appendBurst_hdr (b : List Container) (cw : BitVec 6) : (appendBurst s b cw).hdr = s.hdr := rfl
@[simp] theorem appendBurst_de (b : List Container) (cw : BitVec 6) : (appendBurst s b cw).de = s.de := rfl
@[simp] theorem appendBurst_bsz (b : List Container) (cw : BitVec 6) : (appendBurst s b cw).bsz = s.bsz := rfl
@[simp] theorem appendBurst_fs (b : List Container) (cw : BitVec 6) : (appendBurst s b cw).fs = s.fs := rfl
@[simp] theorem appendBurst_sc (b : List Container) (cw : BitVec 6) : (appendBurst s b cw).sc = s.sc := rfl
@[simp] theorem appendBurst_st (b : List Container) (cw : BitVec 6) : (appendBurst s b cw).st = s.st := rfl
@[simp] theorem appendBurst_es (b : List Container) (cw : BitVec 6) : (appendBurst s b cw).es = s.es := rfl
@[simp] theorem appendBurst_frame (b : List Container) (cw : BitVec 6) : (appendBurst s b cw).frame = s.frame := rfl
@[simp] theorem appendBurst_fsbuf (b : List Container) (cw : BitVec 6) : (appendBurst s b cw).fsbuf = s.fsbuf := rfl
@[simp] theorem appendBurst_deframe (b : List Container) (cw : BitVec 6) : (appendBurst s b cw).deframe =
    s.deframe := rfl
@[simp] theorem appendBurst_debuf (b : List Container) (cw : BitVec 6) : (appendBurst s b cw).debuf = s.debuf := rfl
@[simp] theorem appendBurst_buout (b : List Container) (cw : BitVec 6) : (appendBurst s b cw).buout = s.buout := rfl
@[simp] theorem appendBurst_burstout (b : List Container) (cw : BitVec 6) : (appendBurst s b cw).burstout =
    s.burstout ++ b := rfl
@[simp] theorem appendBurst_pcm (b : List Container) (cw : BitVec 6) : (appendBurst s b cw).pcm = s.pcm := rfl
@[simp] theorem appendBurst_payout (b : List Container) (cw : BitVec 6) : (appendBurst s b cw).payout =
    s.payout := rfl

/-! ## countDolbyE s: the Dolby E count (R258) -/

@[simp] theorem countDolbyE_cfg : (countDolbyE s).cfg = s.cfg := rfl
@[simp] theorem countDolbyE_port : (countDolbyE s).port = s.port := rfl
@[simp] theorem countDolbyE_result : (countDolbyE s).result = s.result := rfl
@[simp] theorem countDolbyE_conf : (countDolbyE s).conf = s.conf := rfl
@[simp] theorem countDolbyE_stat : (countDolbyE s).stat = s.stat := rfl
@[simp] theorem countDolbyE_strm : (countDolbyE s).strm = s.strm := rfl
@[simp] theorem countDolbyE_bu : (countDolbyE s).bu = s.bu := rfl
@[simp] theorem countDolbyE_hdr : (countDolbyE s).hdr = s.hdr := rfl
@[simp] theorem countDolbyE_de : (countDolbyE s).de = s.de := rfl
@[simp] theorem countDolbyE_bsz : (countDolbyE s).bsz = { s.bsz with deIndex := s.bsz.deIndex + 1 } := rfl
@[simp] theorem countDolbyE_fs : (countDolbyE s).fs = s.fs := rfl
@[simp] theorem countDolbyE_sc : (countDolbyE s).sc = s.sc := rfl
@[simp] theorem countDolbyE_st : (countDolbyE s).st = s.st := rfl
@[simp] theorem countDolbyE_es : (countDolbyE s).es = s.es := rfl
@[simp] theorem countDolbyE_frame : (countDolbyE s).frame = s.frame := rfl
@[simp] theorem countDolbyE_fsbuf : (countDolbyE s).fsbuf = s.fsbuf := rfl
@[simp] theorem countDolbyE_deframe : (countDolbyE s).deframe = s.deframe := rfl
@[simp] theorem countDolbyE_debuf : (countDolbyE s).debuf = s.debuf := rfl
@[simp] theorem countDolbyE_buout : (countDolbyE s).buout = s.buout := rfl
@[simp] theorem countDolbyE_burstout : (countDolbyE s).burstout = s.burstout := rfl
@[simp] theorem countDolbyE_pcm : (countDolbyE s).pcm = s.pcm := rfl
@[simp] theorem countDolbyE_payout : (countDolbyE s).payout = s.payout := rfl

/-! ## scanEof s: the Eof condition of the scanner (R272) -/

@[simp] theorem scanEof_cfg : (scanEof s).cfg = s.cfg := rfl
@[simp] theorem scanEof_port : (scanEof s).port = s.port := rfl
@[simp] theorem scanEof_result : (scanEof s).result = 0 := rfl
@[simp] theorem scanEof_conf : (scanEof s).conf = s.conf := rfl
@[simp] theorem scanEof_stat : (scanEof s).stat = { s.stat with status := statusWriteEof s.stat.status true } := rfl
@[simp] theorem scanEof_strm : (scanEof s).strm = { s.strm with pcmPos := s.strm.pcmLen } := rfl
@[simp] theorem scanEof_bu : (scanEof s).bu = s.bu := rfl
@[simp] theorem scanEof_hdr : (scanEof s).hdr = s.hdr := rfl
@[simp] theorem scanEof_de : (scanEof s).de = s.de := rfl
@[simp] theorem scanEof_bsz : (scanEof s).bsz = s.bsz := rfl
@[simp] theorem scanEof_fs : (scanEof s).fs = s.fs := rfl
@[simp] theorem scanEof_sc : (scanEof s).sc = { s.sc with locked := false } := rfl
@[simp] theorem scanEof_st : (scanEof s).st = s.st := rfl
@[simp] theorem scanEof_es : (scanEof s).es = s.es := rfl
@[simp] theorem scanEof_frame : (scanEof s).frame = s.frame := rfl
@[simp] theorem scanEof_fsbuf : (scanEof s).fsbuf = s.fsbuf := rfl
@[simp] theorem scanEof_deframe : (scanEof s).deframe = s.deframe := rfl
@[simp] theorem scanEof_debuf : (scanEof s).debuf = s.debuf := rfl
@[simp] theorem scanEof_buout : (scanEof s).buout = s.buout := rfl
@[simp] theorem scanEof_burstout : (scanEof s).burstout = s.burstout := rfl
@[simp] theorem scanEof_pcm : (scanEof s).pcm = s.pcm := rfl
@[simp] theorem scanEof_payout : (scanEof s).payout = s.payout := rfl

/-! ## scanLock s p h: the confirmed lock (R271) -/

@[simp] theorem scanLock_cfg (p : Nat) (h : DataMode) : (scanLock s p h).cfg = s.cfg := rfl
@[simp] theorem scanLock_port (p : Nat) (h : DataMode) : (scanLock s p h).port = s.port := rfl
@[simp] theorem scanLock_result (p : Nat) (h : DataMode) : (scanLock s p h).result = 1 := rfl
@[simp] theorem scanLock_conf (p : Nat) (h : DataMode) : (scanLock s p h).conf = s.conf := rfl
@[simp] theorem scanLock_stat (p : Nat) (h : DataMode) : (scanLock s p h).stat =
    { s.stat with status := statusWriteEof s.stat.status false } := rfl
@[simp] theorem scanLock_strm (p : Nat) (h : DataMode) : (scanLock s p h).strm =
    { s.strm with pcmPos := BitVec.ofNat 32 (p + 4) } := rfl
@[simp] theorem scanLock_bu (p : Nat) (h : DataMode) : (scanLock s p h).bu = s.bu := rfl
@[simp] theorem scanLock_hdr (p : Nat) (h : DataMode) : (scanLock s p h).hdr = s.hdr := rfl
@[simp] theorem scanLock_de (p : Nat) (h : DataMode) : (scanLock s p h).de = s.de := rfl
@[simp] theorem scanLock_bsz (p : Nat) (h : DataMode) : (scanLock s p h).bsz = s.bsz := rfl
@[simp] theorem scanLock_fs (p : Nat) (h : DataMode) : (scanLock s p h).fs = s.fs := rfl
@[simp] theorem scanLock_sc (p : Nat) (h : DataMode) : (scanLock s p h).sc =
    { s.sc with
      locked := true, mode := some h, pc := BitVec.ofNat 16 (rj (s.pcm.read (p + 2)) 16)
      pd := BitVec.ofNat 24 (rj (s.pcm.read (p + 3)) h.bits), type := classifyPc s.cfg (rj (s.pcm.read (p + 2)) 16) h
      papos := BitVec.ofNat 32 p } := rfl
@[simp] theorem scanLock_st (p : Nat) (h : DataMode) : (scanLock s p h).st =
    statsUpdate s.st p (rj (s.pcm.read (p + 2)) 16) (rj (s.pcm.read (p + 3)) h.bits) := rfl
@[simp] theorem scanLock_es (p : Nat) (h : DataMode) : (scanLock s p h).es = s.es := rfl
@[simp] theorem scanLock_frame (p : Nat) (h : DataMode) : (scanLock s p h).frame = s.frame := rfl
@[simp] theorem scanLock_fsbuf (p : Nat) (h : DataMode) : (scanLock s p h).fsbuf = s.fsbuf := rfl
@[simp] theorem scanLock_deframe (p : Nat) (h : DataMode) : (scanLock s p h).deframe = s.deframe := rfl
@[simp] theorem scanLock_debuf (p : Nat) (h : DataMode) : (scanLock s p h).debuf = s.debuf := rfl
@[simp] theorem scanLock_buout (p : Nat) (h : DataMode) : (scanLock s p h).buout = s.buout := rfl
@[simp] theorem scanLock_burstout (p : Nat) (h : DataMode) : (scanLock s p h).burstout = s.burstout := rfl
@[simp] theorem scanLock_pcm (p : Nat) (h : DataMode) : (scanLock s p h).pcm = s.pcm := rfl
@[simp] theorem scanLock_payout (p : Nat) (h : DataMode) : (scanLock s p h).payout = s.payout := rfl

/-! ## extractBurst s nw: the extraction (R280) -/

@[simp] theorem extractBurst_cfg (nw : Nat) : (extractBurst s nw).cfg = s.cfg := rfl
@[simp] theorem extractBurst_port (nw : Nat) : (extractBurst s nw).port = s.port := rfl
@[simp] theorem extractBurst_result (nw : Nat) : (extractBurst s nw).result = BitVec.ofNat 32 nw := rfl
@[simp] theorem extractBurst_conf (nw : Nat) : (extractBurst s nw).conf = s.conf := rfl
@[simp] theorem extractBurst_stat (nw : Nat) : (extractBurst s nw).stat = s.stat := rfl
@[simp] theorem extractBurst_strm (nw : Nat) : (extractBurst s nw).strm =
    { s.strm with payoutLen := s.strm.payoutLen + nw, pcmPos := BitVec.ofNat 32 (s.strm.pcmPos.toNat + nw) } := rfl
@[simp] theorem extractBurst_bu (nw : Nat) : (extractBurst s nw).bu = s.bu := rfl
@[simp] theorem extractBurst_hdr (nw : Nat) : (extractBurst s nw).hdr = s.hdr := rfl
@[simp] theorem extractBurst_de (nw : Nat) : (extractBurst s nw).de = s.de := rfl
@[simp] theorem extractBurst_bsz (nw : Nat) : (extractBurst s nw).bsz = s.bsz := rfl
@[simp] theorem extractBurst_fs (nw : Nat) : (extractBurst s nw).fs = s.fs := rfl
@[simp] theorem extractBurst_sc (nw : Nat) : (extractBurst s nw).sc =
    { s.sc with
      decWords := BitVec.ofNat 32 nw, decBytes := BitVec.ofNat 32 (nw * (s.conf.cw.toNat / 8)), locked := false } := rfl
@[simp] theorem extractBurst_st (nw : Nat) : (extractBurst s nw).st = s.st := rfl
@[simp] theorem extractBurst_es (nw : Nat) : (extractBurst s nw).es = s.es := rfl
@[simp] theorem extractBurst_frame (nw : Nat) : (extractBurst s nw).frame = s.frame := rfl
@[simp] theorem extractBurst_fsbuf (nw : Nat) : (extractBurst s nw).fsbuf = s.fsbuf := rfl
@[simp] theorem extractBurst_deframe (nw : Nat) : (extractBurst s nw).deframe = s.deframe := rfl
@[simp] theorem extractBurst_debuf (nw : Nat) : (extractBurst s nw).debuf = s.debuf := rfl
@[simp] theorem extractBurst_buout (nw : Nat) : (extractBurst s nw).buout = s.buout := rfl
@[simp] theorem extractBurst_burstout (nw : Nat) : (extractBurst s nw).burstout = s.burstout := rfl
@[simp] theorem extractBurst_pcm (nw : Nat) : (extractBurst s nw).pcm = s.pcm := rfl
@[simp] theorem extractBurst_payout (nw : Nat) : (extractBurst s nw).payout =
    s.payout ++ s.pcm.readList s.strm.pcmPos.toNat nw := rfl

end Sys2Proof.Laws
end

