-- ==== Sys2Proof/Laws/Ops.lean ====
section
/-!
SUPPORT. What the shared operations can do: how an operation ends, the status bits, and the bound of a memory.
-/

namespace Sys2Proof.Laws

open Sys2Proof.Machine

variable {s t : State} {body : State → Run}

/-! ## How an operation ends -/

@[simp] theorem finish_ok (s t : State) : finish s (.ok t) = .next t := rfl
@[simp] theorem finish_raised (s : State) (k : ErrKind) (i : Nat) :
    finish s (.error (.raised k i)) = .next (s.raise k i) := rfl
@[simp] theorem finish_refused (s : State) (r : Refusal) : finish s (.error (.refused r)) = .refused r := rfl
@[simp] theorem finish_faulted (s : State) (f : Fault) : finish s (.error (.faulted f)) = .fault f := rfl

/-- While the fault is latched the operation is a no-op. -/
theorem runOp_latched (h : s.faultFlag = true) : runOp s body = .next s.noOp := by simp [runOp, h]

/-- Without a fault the body decides. -/
theorem runOp_clear (h : s.faultFlag = false) : runOp s body = finish s (body s) := by simp [runOp, h]

/-- How `finish` can answer a next state: the body committed it, or raised. -/
theorem finish_next {r : Run} (h : finish s r = .next t) :
    r = .ok t ∨ ∃ k i, r = .error (.raised k i) ∧ t = s.raise k i := by
  cases r with
  | ok u => simp at h; exact .inl (by rw [h])
  | error e => cases e <;> simp at h; exact .inr ⟨_, _, rfl, h.symm⟩

/-- Everything an operation that answers a next state can have done: nothing, under a fault; what its body commits; or
a raise. -/
theorem runOp_next (h : runOp s body = .next t) :
    (s.faultFlag = true ∧ t = s.noOp) ∨ (s.faultFlag = false ∧ body s = .ok t) ∨
      (s.faultFlag = false ∧ ∃ k i, body s = .error (.raised k i) ∧ t = s.raise k i) := by
  cases hf : s.faultFlag with
  | true => rw [runOp_latched hf] at h; cases h; exact .inl ⟨rfl, rfl⟩
  | false =>
    rw [runOp_clear hf] at h
    rcases finish_next h with h | h
    · exact .inr (.inl ⟨rfl, h⟩)
    · exact .inr (.inr ⟨rfl, h⟩)

/-- An operation ends in a fault of the model exactly when its body does. -/
theorem runOp_fault {f : Fault} : runOp s body = .fault f ↔ s.faultFlag = false ∧ body s = .error (.faulted f) := by
  cases hf : s.faultFlag with
  | true => simp [runOp_latched hf]
  | false =>
    rw [runOp_clear hf]
    cases body s with
    | ok u => simp
    | error e => cases e <;> simp

/-- An operation is refused exactly when its body refuses. -/
theorem runOp_refused {r : Refusal} :
    runOp s body = .refused r ↔ s.faultFlag = false ∧ body s = .error (.refused r) := by
  cases hf : s.faultFlag with
  | true => simp [runOp_latched hf]
  | false =>
    rw [runOp_clear hf]
    cases body s with
    | ok u => simp
    | error e => cases e <;> simp

/-! ## The status bits -/

/-- What setting FAULT does to the three bits of STATUS. -/
theorem statusSetFault_bits (v : BitVec 3) :
    (statusSetFault v).getLsbD 0 = true ∧ (statusSetFault v).getLsbD 1 = v.getLsbD 1 ∧
      (statusSetFault v).getLsbD 2 = v.getLsbD 2 := by
  revert v; decide

/-- What setting WARN does to the three bits of STATUS. -/
theorem statusSetWarn_bits (v : BitVec 3) :
    (statusSetWarn v).getLsbD 0 = v.getLsbD 0 ∧ (statusSetWarn v).getLsbD 1 = true ∧
      (statusSetWarn v).getLsbD 2 = v.getLsbD 2 := by
  revert v; decide

@[simp] theorem faultFlag_raise (s : State) (k : ErrKind) (i : Nat) : (s.raise k i).faultFlag = true :=
  (statusSetFault_bits _).1
@[simp] theorem warnFlag_raise (s : State) (k : ErrKind) (i : Nat) : (s.raise k i).warnFlag = s.warnFlag :=
  (statusSetFault_bits _).2.1
@[simp] theorem eofFlag_raise (s : State) (k : ErrKind) (i : Nat) : (s.raise k i).eofFlag = s.eofFlag :=
  (statusSetFault_bits _).2.2
@[simp] theorem faultFlag_warn (s : State) : s.warn.faultFlag = s.faultFlag := (statusSetWarn_bits _).1
@[simp] theorem warnFlag_warn (s : State) : s.warn.warnFlag = true := (statusSetWarn_bits _).2.1
@[simp] theorem eofFlag_warn (s : State) : s.warn.eofFlag = s.eofFlag := (statusSetWarn_bits _).2.2
@[simp] theorem faultFlag_noOp (s : State) : s.noOp.faultFlag = s.faultFlag := rfl
@[simp] theorem warnFlag_noOp (s : State) : s.noOp.warnFlag = s.warnFlag := rfl
@[simp] theorem eofFlag_noOp (s : State) : s.noOp.eofFlag = s.eofFlag := rfl

/-- What writing the EOF bit does to the three bits of STATUS. -/
theorem statusWriteEof_bits (v : BitVec 3) (b : Bool) :
    (statusWriteEof v b).getLsbD 0 = v.getLsbD 0 ∧ (statusWriteEof v b).getLsbD 1 = v.getLsbD 1 ∧
      (statusWriteEof v b).getLsbD 2 = b := by
  revert v b; decide

@[simp] theorem faultFlag_setEof (s : State) (b : Bool) : (s.setEof b).faultFlag = s.faultFlag :=
  (statusWriteEof_bits _ b).1
@[simp] theorem warnFlag_setEof (s : State) (b : Bool) : (s.setEof b).warnFlag = s.warnFlag :=
  (statusWriteEof_bits _ b).2.1
@[simp] theorem eofFlag_setEof (s : State) (b : Bool) : (s.setEof b).eofFlag = b :=
  (statusWriteEof_bits _ b).2.2

/-- The status bits depend on STATUS alone. -/
theorem faultFlag_congr {s t : State} (h : t.stat = s.stat) : t.faultFlag = s.faultFlag := by
  simp [State.faultFlag, h]

/-! ## The bound of a memory -/

/-- What the bound of a memory says. -/
theorem inMemory_iff (a n size : Nat) : inMemory a n size = true ↔ n = 0 ∨ a + n ≤ size := by
  simp [inMemory]

theorem inMemory_of_le {a n size : Nat} (h : a + n ≤ size) : inMemory a n size = true :=
  (inMemory_iff a n size).2 (.inr h)

end Sys2Proof.Laws
end

