-- ==== Sys2Proof/Laws/BitUnpacker.lean ====
section
/-!
SUPPORT. What the bit unpacker's functions answer (R132 to R139 of 41_bit_unpacker.md), and what the bodies of BU.INIT,
BU.UNPACK, BU.UNKEY and DE.PARSE can do.
-/

namespace Sys2Proof.Laws

open Sys2Proof.Machine Memory

/-! ## The depth operand -/

/-- The admitted depths are exactly the numbers of the three modes. -/
theorem depthOf_eq_some {n : Nat} {m : DataMode} : depthOf n = some m ↔ n = m.bits := by
  unfold depthOf
  constructor
  · intro h; split at h <;> [skip; split at h <;> [skip; split at h]] <;> simp_all <;> subst h <;> rfl
  · rintro rfl; cases m <;> rfl

@[simp] theorem depthOf_bits (m : DataMode) : depthOf m.bits = some m := depthOf_eq_some.2 rfl

theorem bits_cases (m : DataMode) : m.bits = 16 ∨ m.bits = 20 ∨ m.bits = 24 := by cases m <;> simp [DataMode.bits]

theorem bits_pos (m : DataMode) : 0 < m.bits := by cases m <;> decide

theorem bits_le (m : DataMode) : m.bits ≤ 24 := by cases m <;> decide

/-! ## The cursor -/

/-- The normalised cursor stands at the position it was set to, when that lies inside a buffer (R132). -/
theorem cursorPos_setCursor (m : DataMode) {p : Nat} (bu : BuRegs) (h : p ≤ bu.len.toNat * m.bits) :
    cursorPos m.bits (setCursor m.bits p bu) = p := by
  have hb := bits_pos m
  have hl := bits_le m
  have h1 : p / m.bits < 2 ^ 32 := by
    have : p / m.bits ≤ bu.len.toNat := Nat.div_le_of_le_mul (by rwa [Nat.mul_comm] at h)
    have := bu.len.isLt
    omega
  have h2 : p % m.bits < 2 ^ 5 := by
    have := Nat.mod_lt p hb
    omega
  simp only [cursorPos, setCursor, BitVec.toNat_ofNat, Nat.mod_eq_of_lt h1, Nat.mod_eq_of_lt h2]
  rw [Nat.mul_comm]
  exact Nat.div_add_mod p m.bits

/-- The normalised bit pointer is below the depth (R132). -/
theorem bp_setCursor (m : DataMode) (p : Nat) (bu : BuRegs) : (setCursor m.bits p bu).bp.toNat < m.bits := by
  have h2 : p % m.bits < m.bits := Nat.mod_lt p (bits_pos m)
  simp only [setCursor, BitVec.toNat_ofNat]
  exact lt_of_le_of_lt (Nat.mod_le _ _) h2

@[simp] theorem setCursor_depth (n p : Nat) (bu : BuRegs) : (setCursor n p bu).depth = bu.depth := rfl
@[simp] theorem setCursor_len (n p : Nat) (bu : BuRegs) : (setCursor n p bu).len = bu.len := rfl

/-! ## Fields of the bit stream -/

/-- Bit `i` of a field, counted from its least significant bit (R133). -/
theorem fieldAt_testBit (d : Memory 32) (n p : Nat) : ∀ nb i,
    (fieldAt d n p nb).testBit i = (decide (i < nb) && streamBit d n (p + (nb - 1 - i)))
  | 0, i => by simp [fieldAt]
  | nb + 1, i => by
    have hb : ofFlag (streamBit d n (p + nb)) < 2 := by cases streamBit d n (p + nb) <;> decide
    cases i with
    | zero =>
      cases h : streamBit d n (p + nb) <;> simp [fieldAt, ofFlag, h, Nat.testBit_zero]
    | succ i =>
      have : (fieldAt d n p (nb + 1)).testBit (i + 1) = (fieldAt d n p nb).testBit i := by
        rw [Nat.testBit_succ, fieldAt]
        congr 1
        omega
      rw [this, fieldAt_testBit d n p nb i]
      have he : nb - 1 - i = nb + 1 - 1 - (i + 1) := by omega
      rw [he]
      simp

/-- A field is below 2^numbits (R137). -/
theorem fieldAt_lt (d : Memory 32) (n p : Nat) : ∀ nb, fieldAt d n p nb < 2 ^ nb
  | 0 => by simp [fieldAt]
  | nb + 1 => by
    have ih := fieldAt_lt d n p nb
    have hb : ofFlag (streamBit d n (p + nb)) < 2 := by cases streamBit d n (p + nb) <;> decide
    rw [fieldAt, Nat.pow_succ]
    omega

/-- Everything `UnpackFn` does when it does not fail (R136). -/
theorem unpackFn_some {m : DataMode} {n w : Nat} {u u' : Unpacker} {out : List Word32}
    (h : unpackFn m n w u = some (out, u')) :
    cursorPos m.bits u.bu + n * w ≤ u.bu.len.toNat * m.bits ∧
    out = (List.range n).map (fun k => BitVec.ofNat 32 (fieldAt u.debuf m.bits (cursorPos m.bits u.bu + k * w) w)) ∧
    u' = { u with bu := setCursor m.bits (cursorPos m.bits u.bu + n * w) u.bu } := by
  unfold unpackFn at h
  simp only [] at h
  split at h
  · cases h
  · rename_i hb
    simp only [Option.some.injEq, Prod.mk.injEq] at h
    exact ⟨by omega, h.1.symm, h.2.symm⟩

/-- `UnpackFn` fails exactly when the fields run past the buffer (R136). -/
theorem unpackFn_none {m : DataMode} {n w : Nat} {u : Unpacker} :
    unpackFn m n w u = none ↔ u.bu.len.toNat * m.bits < cursorPos m.bits u.bu + n * w := by
  simp [unpackFn]

/-! ## Unkeying -/

/-- Element `b` after a run of XORs (R139). -/
theorem read_xorWords {v : Container} : ∀ {d : Memory 32} (_ : d.wf) (start n b : Nat),
    (xorWords d start v n).read b = if start ≤ b ∧ b < start + n then d.read b ^^^ v else d.read b
  | d, _, start, 0, b => by
    have : ¬(start ≤ b ∧ b < start + 0) := by omega
    rw [if_neg this, xorWords]
  | d, h, start, n + 1, b => by
    rw [xorWords, read_xorWords (Memory.wf_write h _ _)]
    by_cases hb : b = start
    · subst hb
      rw [if_neg (by omega), if_pos (by omega), read_write_self h]
    · rw [read_write_of_ne _ _ hb]
      by_cases hr : start + 1 ≤ b ∧ b < start + 1 + n
      · rw [if_pos hr, if_pos (by omega)]
      · rw [if_neg hr, if_neg (by omega)]

theorem wf_xorWords {v : Container} : ∀ {d : Memory 32} (_ : d.wf) (start n : Nat), (xorWords d start v n).wf
  | _, h, _, 0 => h
  | _, h, start, n + 1 => wf_xorWords (Memory.wf_write h _ _) (start + 1) n

/-- Everything `UnkeyFn` does when it does not fail (R139). -/
theorem unkeyFn_some {m : DataMode} {key n : Nat} {u u' : Unpacker} (h : unkeyFn m key n u = some u') :
    unkeyStart m u.bu + n ≤ u.bu.len.toNat ∧
    u' = { u with debuf := xorWords u.debuf (unkeyStart m u.bu) (lj (key % 2 ^ m.bits) m.bits) n } := by
  unfold unkeyFn at h
  simp only [] at h
  split at h
  · cases h
  · exact ⟨by omega, by cases h; rfl⟩

/-- `UnkeyFn` fails exactly when the words run past the buffer (R139). -/
theorem unkeyFn_none {m : DataMode} {key n : Nat} {u : Unpacker} :
    unkeyFn m key n u = none ↔ u.bu.len.toNat < unkeyStart m u.bu + n := by
  simp [unkeyFn]

/-- The start word is the cursor's word at a boundary and the next one inside a word (R139). -/
theorem unkeyStart_eq (m : DataMode) (bu : BuRegs) (h : bu.bp.toNat < m.bits) :
    unkeyStart m bu = if bu.bp.toNat = 0 then bu.wp.toNat else bu.wp.toNat + 1 := by
  have hb := bits_pos m
  unfold unkeyStart ceilDiv cursorPos
  split
  · rename_i h0
    rw [h0]
    have : bu.wp.toNat * m.bits + 0 + m.bits - 1 = m.bits - 1 + m.bits * bu.wp.toNat := by
      rw [Nat.mul_comm]; omega
    rw [this, Nat.add_mul_div_left _ _ hb, Nat.div_eq_of_lt (by omega)]
    omega
  · rename_i h0
    have : bu.wp.toNat * m.bits + bu.bp.toNat + m.bits - 1 = bu.bp.toNat - 1 + m.bits * (bu.wp.toNat + 1) := by
      rw [Nat.mul_comm bu.wp.toNat, Nat.mul_add]; omega
    rw [this, Nat.add_mul_div_left _ _ hb, Nat.div_eq_of_lt (by omega)]
    omega

/-- The unpacker after the load: the first `len` words of DEBUF are DEFRAME's (R131). -/
theorem read_loadUnpacker {s : State} (h : s.debuf.wf) (m : DataMode) (len : Word32) (a : Nat) :
    (loadUnpacker s m len).debuf.read a = if a < len.toNat then s.deframe.read a else s.debuf.read a := by
  simp only [loadUnpacker]
  rw [read_writeList_readList h]
  simp

/-! ## The bodies -/

theorem buInitBody_ok {s t : State} {depth len : Word32} (h : buInitBody depth len s = .ok t) :
    ∃ m, depth.toNat = m.bits ∧ len.toNat ≤ s.cfg.debufCap ∧
      t = { s with bu := (loadUnpacker s m len).bu, debuf := (loadUnpacker s m len).debuf, result := 0 } := by
  unfold buInitBody at h
  split at h
  · cases h
  · rename_i m hm
    split at h
    · cases h
    · cases h
      exact ⟨m, depthOf_eq_some.1 hm, by omega, rfl⟩

theorem buUnpackBody_ok {s t : State} {n w : Word32} (h : buUnpackBody n w s = .ok t) :
    ∃ m out u, s.bu.depth = some m ∧ 1 ≤ w.toNat ∧ w.toNat ≤ 32 ∧ n.toNat ≤ s.cfg.buoutCap ∧
      unpackFn m n.toNat w.toNat { bu := s.bu, debuf := s.debuf } = some (out, u) ∧
      t = { s with bu := u.bu, buout := s.buout.writeList 0 out, result := out.headD 0 } := by
  unfold buUnpackBody at h
  split at h
  · cases h
  · rename_i m hm
    split at h
    · cases h
    · split at h
      · cases h
      · split at h
        · cases h
        · split at h
          · cases h
          · rename_i out u hu
            cases h
            exact ⟨m, out, u, hm, by omega, by omega, by omega, hu, rfl⟩

theorem buUnkeyBody_ok {s t : State} {key n : Word32} (h : buUnkeyBody key n s = .ok t) :
    ∃ m u, s.bu.depth = some m ∧ unkeyFn m key.toNat n.toNat { bu := s.bu, debuf := s.debuf } = some u ∧
      t = { s with debuf := u.debuf, result := 0 } := by
  unfold buUnkeyBody at h
  split at h
  · cases h
  · rename_i m hm
    split at h
    · cases h
    · split at h
      · cases h
      · rename_i u hu
        cases h
        exact ⟨m, u, hm, hu, rfl⟩

/-! ## The sequence of DE.PARSE -/

/-- One step `U(n, w)` of the sequence. -/
theorem deUnpack_ok {m : DataMode} {n w : Nat} {u u' : Unpacker} {out : List Word32}
    (h : deUnpack m n w u = .ok (out, u')) : unpackFn m n w u = some (out, u') := by
  unfold deUnpack at h
  split at h
  · rename_i r hr; cases h; exact hr
  · cases h

/-- What a step of the sequence keeps: depth, length, and a cursor inside the buffer. -/
structure Within (m : DataMode) (len : Word32) (u : Unpacker) : Prop where
  depth  : u.bu.depth = some m
  len_eq : u.bu.len = len
  normal : u.bu.bp.toNat < m.bits
  inside : cursorPos m.bits u.bu ≤ len.toNat * m.bits

theorem within_load (s : State) (m : DataMode) (len : Word32) : Within m len (loadUnpacker s m len) :=
  ⟨rfl, rfl, bits_pos m, by simp [loadUnpacker, cursorPos]⟩

theorem within_unpackFn {m : DataMode} {len : Word32} {n w : Nat} {u u' : Unpacker} {out : List Word32}
    (hu : Within m len u) (h : unpackFn m n w u = some (out, u')) : Within m len u' := by
  obtain ⟨hb, -, rfl⟩ := unpackFn_some h
  refine ⟨hu.depth, hu.len_eq, bp_setCursor m _ _, ?_⟩
  rw [cursorPos_setCursor m _ hb, ← hu.len_eq]
  exact hb

theorem within_unkeyFn {m : DataMode} {len : Word32} {k n : Nat} {u u' : Unpacker} (hu : Within m len u)
    (h : unkeyFn m k n u = some u') : Within m len u' := by
  obtain ⟨-, rfl⟩ := unkeyFn_some h
  exact ⟨hu.depth, hu.len_eq, hu.normal, hu.inside⟩

theorem deField_ok {m : DataMode} {w : Nat} {u u' : Unpacker} {v : Word32} (h : deField m w u = .ok (v, u')) :
    ∃ out, unpackFn m 1 w u = some (out, u') ∧ v = out.headD 0 := by
  unfold deField at h
  split at h
  · rename_i out u1 hr
    cases h
    exact ⟨out, deUnpack_ok hr, rfl⟩
  · cases h

/-- Every property of the unit that the two functions keep, the sequence keeps. -/
theorem deSequence_keeps (P : Unpacker → Prop) {m : DataMode} {u u' : Unpacker} {f : DeFields}
    (hun : ∀ {n w : Nat} {a b : Unpacker} {out : List Word32}, P a → unpackFn m n w a = some (out, b) → P b)
    (hkey : ∀ {k n : Nat} {a b : Unpacker}, P a → unkeyFn m k n a = some b → P b)
    (h : deSequence m u = .ok (f, u')) (hu : P u) : P u' := by
  have hfield : ∀ {w : Nat} {a b : Unpacker} {v : Word32}, P a → deField m w a = .ok (v, b) → P b := by
    intro w a b v ha hf
    obtain ⟨out, ho, -⟩ := deField_ok hf
    exact hun ha ho
  have hif : ∀ {p : Bool} {w : Nat} {a b : Unpacker} {v : Word32}, P a → deFieldIf p m w a = .ok (v, b) → P b := by
    intro p w a b v ha hf
    cases p with
    | false => simp [deFieldIf] at hf; exact hf.2 ▸ ha
    | true => exact hfield ha (by simpa [deFieldIf] using hf)
  have hunkey : ∀ {p : Bool} {k n : Nat} {a b : Unpacker}, P a → deUnkeyIf p m k n a = .ok b → P b := by
    intro p k n a b ha hf
    cases p with
    | false => simp [deUnkeyIf] at hf; exact hf ▸ ha
    | true =>
      simp only [deUnkeyIf, if_true] at hf
      split at hf
      · rename_i c hc; cases hf; exact hkey ha hc
      · cases hf
  simp only [deSequence, bind, Except.bind, pure, Except.pure] at h
  repeat' (split at h; · cases h)
  rename_i h1 _ _ h2 _ _ h3 _ _ h4 _ _ h5 _ _ h6 _ _ h7 _ _ h8 _ _ h9 _ _ h10
  cases h
  exact hfield (hfield (hunkey (hfield (hfield (hunkey (hif (hfield (hfield (hun hu (deUnpack_ok h1)) h2) h3) h4) h5) h6)
    h7) h8) h9) h10

theorem deParseBody_ok {s t : State} {len depth : Word32} (h : deParseBody len depth s = .ok t) :
    ∃ m f u, depth.toNat = m.bits ∧ len.toNat ≤ s.cfg.debufCap ∧ deSequence m (loadUnpacker s m len) = .ok (f, u) ∧
      t = deWarn m f { s with bu := u.bu, debuf := u.debuf, de := deRegsOf m len f, result := f.frc } := by
  unfold deParseBody at h
  split at h
  · cases h
  · rename_i m hm
    split at h
    · cases h
    · split at h
      · cases h
      · rename_i f u hs
        cases h
        exact ⟨m, f, u, depthOf_eq_some.1 hm, by omega, hs, rfl⟩

/-- The warning writes STATUS and WARN_COUNT, or nothing. -/
theorem deWarn_cases (m : DataMode) (f : DeFields) (s : State) : deWarn m f s = s ∨ deWarn m f s = s.warn := by
  unfold deWarn; split <;> simp

end Sys2Proof.Laws
end

