-- ==== Sys2Proof/Laws/Families.lean ====
section
/-!
SUPPORT. What the bodies of CSR.WR, BSZ.SIZE, FS.OFFER and the encoders can commit.
-/

namespace Sys2Proof.Laws

open Sys2Proof.Machine

/-! ## The register file -/

/-- The number of a register names it (R42). -/
theorem ofNumber_number (r : Reg) : Reg.ofNumber r.number = some r := by cases r <;> rfl

/-- A number names at most one register, the one with that number (R42). -/
theorem ofNumber_eq_some {n : Nat} {r : Reg} : Reg.ofNumber n = some r ↔ r.number = n := by
  constructor
  · intro h
    have := List.find?_some h
    simpa using this
  · rintro rfl; exact ofNumber_number r

/-- The numbers that name no register (R42). -/
theorem ofNumber_eq_none {n : Nat} : Reg.ofNumber n = none ↔ ∀ r : Reg, r.number ≠ n := by
  constructor
  · intro h r hr
    rw [← hr, ofNumber_number] at h
    cases h
  · intro h
    cases hn : Reg.ofNumber n with
    | none => rfl
    | some r => exact absurd (ofNumber_eq_some.1 hn) (h r)

/-- No register has a number of 0x7C or more (R304). -/
theorem number_lt (r : Reg) : r.number < 0x7C := by cases r <;> decide

/-- The writable registers (R306 (b)). -/
theorem writable_iff (r : Reg) : r.writable = true ↔
    r = .cfgAlt ∨ r = .cfgStreamnum ∨ r = .cfgCw ∨ r = .esPos ∨ r = .pcmPos ∨ r = .deIndex := by
  cases r <;> simp [Reg.writable]

/-- What CSR.WR commits: one of the six writes (R306, R307). -/
theorem csrWrBody_ok {reg value : Word32} {s t : State} (h : csrWrBody reg value s = .ok t) :
    ∃ r, r.number = reg.toNat ∧ r.writable = true ∧ writeProblem s r value = none ∧
      t = { s.writeReg r value with result := 0 } := by
  unfold csrWrBody at h
  split at h
  · cases h
  · rename_i r hr
    split at h
    · cases h
    · rename_i hw
      split at h
      · cases h
      · rename_i hp
        cases h
        exact ⟨r, ofNumber_eq_some.1 hr, by simpa using hw, hp, rfl⟩

/-- What the tests of R306 leave through. -/
theorem writeProblem_none {s : State} {r : Reg} {b : Word32} (h : writeProblem s r b = none) :
    (r = .cfgCw → b = 16 ∨ b = 24 ∨ b = 32) ∧
    (r = .esPos → b.toNat % 2 = 0 ∧ b.toNat ≤ s.strm.esLen.toNat) ∧
    (r = .pcmPos → b.toNat ≤ s.strm.pcmLen.toNat) := by
  unfold writeProblem at h
  split at h
  · cases h
  · rename_i hc
    split at h
    · cases h
    · rename_i he
      split at h
      · cases h
      · rename_i hp
        refine ⟨?_, ?_, ?_⟩
        · rintro rfl
          simp only [true_and, Bool.not_eq_false] at hc
          simpa [cwAdmitted, or_assoc] using hc
        · rintro rfl
          simp only [true_and, not_or] at he
          omega
        · rintro rfl
          simp only [true_and] at hp
          omega

/-! ## BSZ.SIZE -/

/-- What BSZ.SIZE commits (R201). -/
theorem bszSizeBody_ok {f c i : Word32} {s t : State} (h : bszSizeBody f c i s = .ok t) :
    ∃ size, sizeFor s.cfg f.toNat c.toNat (i.toNat % 5) = .ok size ∧
      t = { s with bsz := { s.bsz with size := size, valid := true }, result := size } := by
  unfold bszSizeBody at h
  split at h
  · cases h
  · rename_i size hs; cases h; exact ⟨size, hs, rfl⟩

/-- A list answers what it holds: the pair a lookup finds is a member. -/
theorem mem_of_lookup {α : Type} {k : Nat} {v : α} : ∀ {l : List (Nat × α)}, l.lookup k = some v → (k, v) ∈ l
  | [], h => by cases h
  | (a, b) :: rest, h => by
    rw [List.lookup_cons] at h
    split at h
    · rename_i hk
      cases h
      simp only [beq_iff_eq] at hk
      subst hk
      exact List.mem_cons_self ..
    · exact List.mem_cons_of_mem _ (mem_of_lookup h)

/-- Every size `SizeFor` returns is one of the configuration's burst sizes (R202, R205). -/
theorem sizeFor_mem {c : Cfg} {f frc i : Nat} {size : Word32} (hi : i < 5) (h : sizeFor c f frc i = .ok size) :
    size.toNat ∈ c.burstSizes := by
  have hde : sizeForDolbyE c frc i = .ok size → size.toNat ∈ c.burstSizes := by
    intro h
    unfold sizeForDolbyE at h
    split at h
    · cases h
      have : (BitVec.ofNat 32 (Config.seq2997.getD i 0)).toNat ∈ Config.seq2997 := by
        interval_cases i <;> decide
      exact List.mem_append_left _ (List.mem_cons_of_mem _ (List.mem_cons_of_mem _ this))
    · split at h
      · split at h
        · rename_i sz hl
          cases h
          exact List.mem_append_right _ (List.mem_map.2 ⟨_, mem_of_lookup hl, rfl⟩)
        · cases h
      · cases h
  unfold sizeFor at h
  split at h
  · cases h; simp [Cfg.burstSizes]
  · cases h; simp [Cfg.burstSizes]
  · exact hde h
  · cases h
  · cases h

/-! ## FS.OFFER -/

/-- What FS.OFFER commits: the short flush, or the append of a frame that fits (R216). -/
theorem fsOfferBody_ok {s t : State} (h : fsOfferBody s = .ok t) :
    s.fs.state = .accumulating ∧ s.hdr.valid = true ∧ s.hdr.frameValid = true ∧ s.bsz.valid = true ∧
    ((blockCountChanges s = true ∧ t = shortFlush s) ∨
     (blockCountChanges s = false ∧
      Config.preambleWords + s.fs.words + s.hdr.frameWords.toNat + Config.capGuard ≤ s.bsz.size.toNat ∧
      inMemory 0 s.hdr.frameWords.toNat s.cfg.frameCap = true ∧
      inMemory s.fs.words s.hdr.frameWords.toNat s.cfg.fsbufCap = true ∧ t = appendFrame s)) := by
  unfold fsOfferBody at h
  split at h
  · cases h
  · rename_i hs
    split at h
    · cases h
    · rename_i hv
      split at h
      · cases h
      · rename_i hb
        simp only [Bool.not_eq_false, Bool.and_eq_true] at hv
        refine ⟨by simpa using hs, hv.1, hv.2, by simpa using hb, ?_⟩
        split at h
        · rename_i hc; cases h; exact .inl ⟨hc, rfl⟩
        · rename_i hc
          split at h
          · cases h
          · rename_i hx
            split at h
            · cases h
            · rename_i hm
              split at h
              · cases h
              · rename_i hm'
                cases h
                simp only [exceedsCapacity, decide_eq_true_eq, not_lt] at hx
                exact .inr ⟨by simpa using hc, hx, by simpa using hm, by simpa using hm', rfl⟩

/-! ## The encoders -/

theorem closedSetProblem_none {s : State} (h : closedSetProblem s = none) :
    s.fs.state ≠ .accumulating ∧ s.bsz.valid = true := by
  unfold closedSetProblem at h
  split at h
  · cases h
  · rename_i h1
    split at h
    · cases h
    · rename_i h2; exact ⟨h1, by simpa using h2⟩

/-- The bit length fits Pd (R243). -/
theorem pdOverflows_eq_false {m : DataMode} {n : Nat} : pdOverflows m n = false ↔ m.bits * n < 2 ^ m.bits := by
  simp [pdOverflows]

@[simp] theorem length_preamble (s : State) (m : DataMode) (fmt n : Nat) : (preamble s m fmt n).length = 4 := rfl
@[simp] theorem length_zeros (n : Nat) : (zeros n).length = n := by simp [zeros]
@[simp] theorem length_setPayload (s : State) (n : Nat) : (setPayload s n).length = n := by
  simp [setPayload, Memory.readList]

/-- What BURST.ENC appends: a burst of exactly BSZ_SIZE words (R241, R260). -/
theorem burstEncBody_ok {s t : State} (h : burstEncBody s = .ok t) :
    s.fs.state ≠ .accumulating ∧ s.bsz.valid = true ∧ 4 + s.fs.words ≤ s.bsz.size.toNat ∧ 16 * s.fs.words < 2 ^ 16 ∧
      (normalBurst s).length = s.bsz.size.toNat ∧ t = appendBurst s (normalBurst s) 16 := by
  unfold burstEncBody at h
  split at h
  · cases h
  · rename_i hp
    obtain ⟨h1, h2⟩ := closedSetProblem_none hp
    split at h
    · cases h
    · rename_i h3
      split at h
      · cases h
      · rename_i h4
        split at h
        · cases h
        · cases h
          refine ⟨h1, h2, by simpa [Config.preambleWords] using h3, pdOverflows_eq_false.1 (by simpa using h4), ?_, rfl⟩
          simp only [normalBurst, List.length_append, length_preamble, length_setPayload, length_zeros]
          simp only [Config.preambleWords] at h3 ⊢
          omega

/-- What BURST.ENCALT appends: a burst of exactly BSZ_SIZE words (R248, R260). -/
theorem burstEncaltBody_ok {s t : State} (h : burstEncaltBody s = .ok t) :
    s.fs.state ≠ .accumulating ∧ s.bsz.valid = true ∧ s.fs.format = .ac3 ∧ ∃ T, altPointOf s = some T ∧
      T ≤ s.bsz.size.toNat ∧ 4 + s.fs.words ≤ T ∧ 16 * s.fs.words < 2 ^ 16 ∧
      (alternateBurst s T).length = s.bsz.size.toNat ∧ t = appendBurst s (alternateBurst s T) 16 := by
  unfold burstEncaltBody at h
  split at h
  · cases h
  · rename_i hp
    obtain ⟨h1, h2⟩ := closedSetProblem_none hp
    split at h
    · cases h
    · rename_i h3
      split at h
      · cases h
      · rename_i T hT
        split at h
        · cases h
        · rename_i h4
          split at h
          · cases h
          · rename_i h5
            split at h
            · cases h
            · cases h
              simp only [not_or, not_lt, Config.preambleWords] at h4
              refine ⟨h1, h2, by simpa using h3, T, hT, h4.1, h4.2, pdOverflows_eq_false.1 (by simpa using h5), ?_, rfl⟩
              simp only [alternateBurst, List.length_append, length_preamble, length_setPayload, length_zeros]
              simp only [Config.preambleWords]
              omega

/-- What BURST.ENCDE appends: a burst of exactly BSZ_SIZE words, counted in DE_INDEX (R254, R258, R260). -/
theorem burstEncdeBody_ok {len depth : Word32} {s t : State} (h : burstEncdeBody len depth s = .ok t) :
    ∃ m, depthOf depth.toNat = some m ∧ len.toNat ≤ s.cfg.debufCap ∧ s.bsz.valid = true ∧ s.conf.alt = false ∧
      4 ≤ len.toNat ∧ len.toNat ≤ s.bsz.size.toNat ∧ m.bits * (len.toNat - 4) < 2 ^ m.bits ∧
      (dolbyEBurst s m len.toNat).length = s.bsz.size.toNat ∧
      t = countDolbyE (appendBurst s (dolbyEBurst s m len.toNat) 32) := by
  unfold burstEncdeBody at h
  split at h
  · cases h
  · rename_i m hm
    split at h
    · cases h
    · rename_i h1
      split at h
      · cases h
      · rename_i h2
        split at h
        · cases h
        · rename_i h3
          split at h
          · cases h
          · rename_i h4
            split at h
            · cases h
            · rename_i h5
              split at h
              · cases h
              · rename_i h6
                cases h
                simp only [Config.preambleWords, not_lt] at h4
                refine ⟨m, hm, by omega, by simpa using h2, by simpa using h3, h4, by omega,
                  pdOverflows_eq_false.1 (by simpa [Config.preambleWords] using h6), ?_, rfl⟩
                simp only [dolbyEBurst, List.length_append, length_preamble, length_zeros, Memory.readList,
                  List.length_map, List.length_range]
                simp only [Config.preambleWords]
                omega

end Sys2Proof.Laws
end

