-- ==== Sys2Proof/Laws/FrameHeader.lean ====
section
/-!
SUPPORT. What the header decoder and the parse loop answer (42_frame_header.md).
-/

namespace Sys2Proof.Laws

open Sys2Proof.Machine

/-! ## Words of the elementary stream -/

/-- The bits of a swapped word. -/
theorem getLsbD_swap16 (w : Word16) (i : Nat) :
    (swap16 w).getLsbD i = if i < 8 then w.getLsbD (8 + i) else if i < 16 then w.getLsbD (i - 8) else false := by
  have h : (swap16 w).getLsbD i = (w.extractLsb' 0 8 ++ w.extractLsb' 8 8).getLsbD i := rfl
  rw [h, BitVec.getLsbD_append]
  by_cases h8 : i < 8
  · simp [h8]
  · by_cases h16 : i < 16
    · simp [h8, h16, show i - 8 < 8 by omega]
    · simp [h8, h16, show ¬ i - 8 < 8 by omega]

@[simp] theorem swap16_swap16 (w : Word16) : swap16 (swap16 w) = w := by
  apply BitVec.eq_of_getLsbD_eq
  intro i hi
  simp only [getLsbD_swap16]
  by_cases h8 : i < 8
  · rw [if_pos h8, if_neg (by omega), if_pos (by omega)]
    congr 1
    omega
  · rw [if_neg h8, if_pos hi, if_pos (by omega)]
    congr 1
    omega

theorem swap16_append (a b : Byte) : swap16 (a ++ b) = b ++ a := by
  apply BitVec.eq_of_getLsbD_eq
  intro i hi
  rw [getLsbD_swap16, BitVec.getLsbD_append, BitVec.getLsbD_append, BitVec.getLsbD_append]
  by_cases h8 : i < 8
  · rw [if_pos h8, if_neg (by omega), if_pos h8]
    congr 1
    omega
  · rw [if_neg h8, if_pos hi, if_pos (by omega), if_neg h8]

@[simp] theorem length_esWords (es : Memory 8) (rev : Bool) (p n : Nat) : (esWords es rev p n).length = n := by
  simp [esWords]

theorem getElem?_esWords (es : Memory 8) (rev : Bool) (p n i : Nat) :
    (esWords es rev p n)[i]? = if i < n then some (norm rev (esWord es (p + 2 * i))) else none := by
  split <;> simp_all [esWords]

/-! ## Decoding a header -/

theorem rangeValue_lt (h : List Word16) (r : BitRange) : rangeValue h r < 2 ^ r.width :=
  Nat.mod_lt _ (Nat.two_pow_pos _)

/-- Putting a range behind `w` bits makes as many more bits. -/
theorem append_range_lt {v w x n : Nat} (hv : v < 2 ^ w) (hx : x < 2 ^ n) : v * 2 ^ n + x < 2 ^ (w + n) := by
  calc v * 2 ^ n + x < v * 2 ^ n + 2 ^ n := by omega
    _ = (v + 1) * 2 ^ n := by ring
    _ ≤ 2 ^ w * 2 ^ n := Nat.mul_le_mul_right _ hv
    _ = 2 ^ (w + n) := (Nat.pow_add 2 w n).symm

/-- A header field is as wide as its LAYOUT entry says. -/
theorem layoutField_lt (f : FieldPos) (h : List Word16) : layoutField f h < 2 ^ f.width := by
  have hput : ∀ (rs : List BitRange) (v w : Nat), v < 2 ^ w →
      rs.foldl (fun v r => v * 2 ^ r.width + rangeValue h r) v < 2 ^ (w + (rs.map BitRange.width).sum) := by
    intro rs
    induction rs with
    | nil => intro v w hv; simpa using hv
    | cons r rs ih =>
      intro v w hv
      simp only [List.foldl_cons, List.map_cons, List.sum_cons, ← Nat.add_assoc]
      exact ih _ _ (append_range_lt hv (rangeValue_lt h r))
  simpa [layoutField, FieldPos.width] using hput f.ranges 0 0 (by simp)

/-- What a decoded header satisfies, whatever the configuration (R161 to R166). -/
structure Decoded (c : Cfg) (alt : Bool) (h : List Word16) (rev : Bool) (hd : Header) : Prop where
  byterev : hd.byterev = rev
  bsid    : hd.bsid = layoutField c.layout.bsid h
  whole   : Config.hdrWords ≤ hd.frameWords
  ac3     : hd.kind = .ac3 → hd.bsid ≤ 8 ∧ decodeAc3 c h rev hd.bsid = .ok hd
  eac3    : hd.kind = .eac3 → 11 ≤ hd.bsid ∧ hd.bsid ≤ 16 ∧ alt = false ∧ hd = decodeEac3 c h rev hd.bsid

/-- When a bsid names a kind (R161). -/
theorem kindOf_eq_ok {b : Nat} {k : ElemKind} :
    kindOf b = .ok k ↔ (b ≤ 8 ∧ k = .ac3) ∨ (11 ≤ b ∧ b ≤ 16 ∧ k = .eac3) := by
  unfold kindOf
  simp only [Config.bsidAc3Max, Config.bsidEac3Min, Config.bsidEac3Max]
  by_cases h8 : b ≤ 8
  · rw [if_pos h8]
    simp only [Except.ok.injEq]
    constructor
    · rintro rfl; exact .inl ⟨h8, rfl⟩
    · rintro (⟨-, rfl⟩ | ⟨h, -, -⟩)
      · rfl
      · omega
  · rw [if_neg h8]
    by_cases h16 : 11 ≤ b ∧ b ≤ 16
    · rw [if_pos h16]
      simp only [Except.ok.injEq]
      constructor
      · rintro rfl; exact .inr ⟨h16.1, h16.2, rfl⟩
      · rintro (⟨h, -⟩ | ⟨-, -, rfl⟩)
        · omega
        · rfl
    · rw [if_neg h16]
      constructor
      · intro h; cases h
      · rintro (⟨h, -⟩ | ⟨h, h', -⟩) <;> omega

theorem checkFrameWords_ok {hd hd' : Header} (h : checkFrameWords hd = .ok hd') :
    hd' = hd ∧ Config.hdrWords ≤ hd.frameWords := by
  unfold checkFrameWords at h
  by_cases hl : hd.frameWords < Config.hdrWords
  · rw [if_pos hl] at h; cases h
  · rw [if_neg hl] at h; cases h; exact ⟨rfl, Nat.le_of_not_lt hl⟩

theorem decodeHeader_ok {c : Cfg} {alt rev : Bool} {h : List Word16} {hd : Header}
    (he : decodeHeader c alt h rev = .ok hd) : Decoded c alt h rev hd := by
  unfold decodeHeader at he
  simp only [] at he
  split at he
  · cases he
  · rename_i hk
    have hb : layoutField c.layout.bsid h ≤ 8 := by
      rcases kindOf_eq_ok.1 hk with h1 | h1
      · exact h1.1
      · cases h1.2.2
    split at he
    · cases he
    · rename_i hd' hd'e
      obtain ⟨rfl, hw⟩ := checkFrameWords_ok he
      have hall : hd.kind = .ac3 ∧ hd.bsid = layoutField c.layout.bsid h ∧ hd.byterev = rev := by
        unfold decodeAc3 at hd'e
        simp only [] at hd'e
        split at hd'e
        · cases hd'e
        · cases hd'e; exact ⟨rfl, rfl, rfl⟩
      refine ⟨hall.2.2, hall.2.1, hw, fun _ => ?_, fun hk' => ?_⟩
      · rw [hall.2.1]; exact ⟨hb, hd'e⟩
      · rw [hall.1] at hk'; cases hk'
  · rename_i hk
    have hb : 11 ≤ layoutField c.layout.bsid h ∧ layoutField c.layout.bsid h ≤ 16 := by
      rcases kindOf_eq_ok.1 hk with h1 | h1
      · cases h1.2
      · exact ⟨h1.1, h1.2.1⟩
    split at he
    · cases he
    · rename_i ha
      obtain ⟨rfl, hw⟩ := checkFrameWords_ok he
      exact ⟨rfl, rfl, hw, fun hk' => by (cases hk'), fun _ => ⟨hb.1, hb.2, by simpa using ha, rfl⟩⟩

/-- What the AC-3 half gives (R162, R165). -/
theorem decodeAc3_ok {c : Cfg} {h : List Word16} {rev : Bool} {bsid : Nat} {hd : Header}
    (he : decodeAc3 c h rev bsid = .ok hd) :
    layoutField c.layout.fscod h < c.nFscod ∧ layoutField c.layout.frmsizecod h < c.nFrmsizecod ∧
    ∃ w, tableEntry c.ac3FrameWords (layoutField c.layout.fscod h) (layoutField c.layout.frmsizecod h) = some w ∧
      hd = { kind := .ac3, bsid := bsid, fscod := layoutField c.layout.fscod h,
             frmsizecod := layoutField c.layout.frmsizecod h, frameWords := w.toNat, blocks := 6, strmtyp := .indep,
             substreamid := 0, byterev := rev } := by
  unfold decodeAc3 ac3Size at he
  simp only [] at he
  split at he
  · cases he
  · rename_i fw hf
    split at hf
    · cases hf
    · split at hf
      · cases hf
      · split at hf
        · rename_i w hw
          cases hf; cases he
          exact ⟨by omega, by omega, w, hw, rfl⟩
        · cases hf

/-- A decoded header fits the registers sized from LAYOUT (R33). -/
theorem decodeHeader_fits {c : Cfg} {alt rev : Bool} {h : List Word16} {hd : Header}
    (he : decodeHeader c alt h rev = .ok hd) :
    hd.bsid < 2 ^ hBsidWidth c ∧ hd.fscod < 2 ^ hFscodWidth c ∧ hd.frmsizecod < 2 ^ hFrmsizecodWidth c ∧
      hd.substreamid < 2 ^ hSubstreamidWidth c := by
  have hD := decodeHeader_ok he
  have hb : hd.bsid < 2 ^ hBsidWidth c := hD.bsid ▸ layoutField_lt _ _
  have hf : ∀ w, w ≤ hFscodWidth c → 2 ^ w ≤ 2 ^ hFscodWidth c := fun w => Nat.pow_le_pow_right (by decide)
  cases hk : hd.kind with
  | ac3 =>
    obtain ⟨-, -, w, -, hhd⟩ := decodeAc3_ok (hD.ac3 hk).2
    refine ⟨hb, ?_, ?_, ?_⟩ <;> rw [hhd]
    · exact lt_of_lt_of_le (layoutField_lt _ _) (hf _ (Nat.le_max_left _ _))
    · exact layoutField_lt _ _
    · exact Nat.two_pow_pos _
  | eac3 =>
    obtain ⟨-, -, -, hhd⟩ := hD.eac3 hk
    refine ⟨hb, ?_, ?_, ?_⟩ <;> rw [hhd]
    · exact lt_of_lt_of_le (layoutField_lt _ _) (hf _ (Nat.le_max_right _ _))
    · exact Nat.two_pow_pos _
    · exact layoutField_lt _ _

theorem fitWidth_lt (width v : Nat) : fitWidth width v < 2 ^ width := Nat.mod_lt _ (Nat.two_pow_pos _)

theorem fitWidth_eq {width v : Nat} (h : v < 2 ^ width) : fitWidth width v = v := Nat.mod_eq_of_lt h

/-- The registers sized from LAYOUT hold the decoded header's own numbers: no bit is lost (R33, R167). -/
theorem hdrRegsOf_decoded {c : Cfg} {alt rev : Bool} {h : List Word16} {f : Found} (r : HdrRegs) (frameValid : Bool)
    (he : decodeHeader c alt h rev = .ok f.hdr) :
    hdrRegsOf c r f frameValid =
      { r with
        valid := true, kind := f.hdr.kind, bsid := f.hdr.bsid, fscod := f.hdr.fscod, frmsizecod := f.hdr.frmsizecod
        frameWords := BitVec.ofNat 16 f.hdr.frameWords, blocks := BitVec.ofNat 3 f.hdr.blocks
        strmtyp := f.hdr.strmtyp, substreamid := f.hdr.substreamid, byterev := f.hdr.byterev
        start := BitVec.ofNat 32 f.start, frameValid := frameValid } := by
  obtain ⟨h1, h2, h3, h4⟩ := decodeHeader_fits he
  simp only [hdrRegsOf, fitWidth_eq h1, fitWidth_eq h2, fitWidth_eq h3, fitWidth_eq h4]

/-- The polarity is carried through and decides nothing else (R159). -/
theorem decodeHeader_rev (c : Cfg) (alt : Bool) (h : List Word16) (r r' : Bool) :
    decodeHeader c alt h r' =
      match decodeHeader c alt h r with
      | .error e => .error e
      | .ok hd => .ok { hd with byterev := r' } := by
  simp only [decodeHeader]
  cases hk : kindOf (layoutField c.layout.bsid h) with
  | error e => rfl
  | ok k =>
    cases k with
    | ac3 =>
      simp only [decodeAc3]
      cases ac3Size c (layoutField c.layout.fscod h) (layoutField c.layout.frmsizecod h) with
      | error e => rfl
      | ok w =>
        by_cases hw : w < Config.hdrWords <;> simp [checkFrameWords, hw]
    | eac3 =>
      cases alt with
      | true => rfl
      | false =>
        by_cases hw : layoutField c.layout.frmsiz h + c.eac3FrmsizBias < Config.hdrWords <;>
          simp [checkFrameWords, decodeEac3, hw]

/-- A block-count code that NUMBLKS has gives one of the four counts (R99). -/
theorem numBlks_cases {k : Nat} (hk : k ≤ 3) : numBlks k = 1 ∨ numBlks k = 2 ∨ numBlks k = 3 ∨ numBlks k = 6 := by
  interval_cases k <;> simp [numBlks]

/-- A block count of any code fits H_BLOCKS. -/
theorem numBlks_lt (k : Nat) : numBlks k < 2 ^ 3 := by
  unfold numBlks; split <;> first | exact BitVec.isLt _ | decide

/-! ## One pass of the loop -/

/-- How a pass goes on to another record: it consumed a timecode record, or a whole frame (R154). -/
theorem parsePass_again {s : State} {ji : Bool} {v v' : ParseVars} (h : parsePass s ji v = .ok (.again v')) :
    (v.tcSeen = false ∧ classify s.cfg (esWord s.es v.p) = .tc ∧ v.p + 2 * s.cfg.tcRecordWords ≤ s.strm.esLen.toNat ∧
      v' = { v with p := v.p + 2 * s.cfg.tcRecordWords, tcSeen := true }) ∨
    (v.found = none ∧ ji = false ∧ ∃ rev hd,
      decodeHeader s.cfg s.conf.alt (esWords s.es rev v.p Config.hdrWords) rev = .ok hd ∧
      classify s.cfg (esWord s.es v.p) = (if rev then .audioRev else .audio) ∧
      v.p + 2 * hd.frameWords ≤ s.strm.esLen.toNat ∧
      v' = { v with p := v.p + 2 * hd.frameWords, found := some ⟨v.p, hd, esWords s.es rev v.p hd.frameWords⟩ }) := by
  have haudio : ∀ rev, passAudio s ji rev v = .ok (.again v') → v.found = none ∧ ji = false ∧ ∃ hd,
      decodeHeader s.cfg s.conf.alt (esWords s.es rev v.p Config.hdrWords) rev = .ok hd ∧
      v.p + 2 * hd.frameWords ≤ s.strm.esLen.toNat ∧
      v' = { v with p := v.p + 2 * hd.frameWords, found := some ⟨v.p, hd, esWords s.es rev v.p hd.frameWords⟩ } := by
    intro rev h
    unfold passAudio at h
    split at h
    · simp at h
    · rename_i hf
      split at h
      · cases h
      · split at h
        · cases h
        · rename_i hd hde
          split at h
          · simp at h
          · rename_i hji
            split at h
            · cases h
            · simp only [Except.ok.injEq, Pass.again.injEq] at h
              exact ⟨by simpa using hf, by simpa using hji, hd, hde, by omega, h.symm⟩
  unfold parsePass at h
  split at h
  · split at h <;> simp at h
  · split at h
    · cases h
    · split at h
      · rename_i hc
        unfold passTc at h
        split at h
        · simp at h
        · rename_i ht
          split at h
          · cases h
          · simp only [Except.ok.injEq, Pass.again.injEq] at h
            exact .inl ⟨by simpa using ht, hc, by omega, h.symm⟩
      · rename_i hc
        obtain ⟨h1, h2, hd, h3, h4, h5⟩ := haudio false h
        exact .inr ⟨h1, h2, false, hd, h3, by simpa using hc, h4, h5⟩
      · rename_i hc
        obtain ⟨h1, h2, hd, h3, h4, h5⟩ := haudio true h
        exact .inr ⟨h1, h2, true, hd, h3, by simpa using hc, h4, h5⟩
      · cases h

/-- How a pass leaves the loop: at the end of the stream, in front of a record of a kind already consumed, or after the
header of HDR.PEEK (R153, R154). -/
theorem parsePass_leave {s : State} {ji : Bool} {v v' : ParseVars} (h : parsePass s ji v = .ok (.leave v')) :
    (v.p = s.strm.esLen.toNat ∧ (v.tcSeen = true ∨ v.found.isSome = true) ∧ v' = { v with stop := .eos }) ∨
    (v.p + 2 ≤ s.strm.esLen.toNat ∧ (v.tcSeen = true ∨ v.found.isSome = true) ∧ v' = { v with stop := .newslice }) ∨
    (v.found = none ∧ ji = true ∧ v.p + 2 * Config.hdrWords ≤ s.strm.esLen.toNat ∧ ∃ rev hd,
      decodeHeader s.cfg s.conf.alt (esWords s.es rev v.p Config.hdrWords) rev = .ok hd ∧
      classify s.cfg (esWord s.es v.p) = (if rev then .audioRev else .audio) ∧
      v' = { v with p := v.p + 2 * Config.hdrWords, stop := .hdronly, found := some ⟨v.p, hd, []⟩ }) := by
  have haudio : ∀ rev, passAudio s ji rev v = .ok (.leave v') →
      (v.found.isSome = true ∧ v' = { v with stop := .newslice }) ∨
      (v.found = none ∧ ji = true ∧ v.p + 2 * Config.hdrWords ≤ s.strm.esLen.toNat ∧ ∃ hd,
        decodeHeader s.cfg s.conf.alt (esWords s.es rev v.p Config.hdrWords) rev = .ok hd ∧
        v' = { v with p := v.p + 2 * Config.hdrWords, stop := .hdronly, found := some ⟨v.p, hd, []⟩ }) := by
    intro rev h
    unfold passAudio at h
    split at h
    · rename_i hf
      simp only [Except.ok.injEq, Pass.leave.injEq] at h
      exact .inl ⟨hf, h.symm⟩
    · rename_i hf
      split at h
      · cases h
      · split at h
        · cases h
        · rename_i hd hde
          split at h
          · rename_i hji
            simp only [Except.ok.injEq, Pass.leave.injEq] at h
            exact .inr ⟨by simpa using hf, hji, by omega, hd, hde, h.symm⟩
          · split at h
            · cases h
            · simp at h
  unfold parsePass at h
  split at h
  · rename_i hp
    split at h
    · rename_i hs
      simp only [Except.ok.injEq, Pass.leave.injEq] at h
      exact .inl ⟨hp, by simpa using hs, h.symm⟩
    · simp at h
  · split at h
    · cases h
    · split at h
      · unfold passTc at h
        split at h
        · rename_i ht
          simp only [Except.ok.injEq, Pass.leave.injEq] at h
          exact .inr (.inl ⟨by omega, .inl ht, h.symm⟩)
        · split at h
          · cases h
          · simp at h
      · rename_i hc
        rcases haudio false h with ⟨h1, h2⟩ | ⟨h1, h2, h3, hd, h4, h5⟩
        · exact .inr (.inl ⟨by omega, .inr h1, h2⟩)
        · exact .inr (.inr ⟨h1, h2, h3, false, hd, h4, by simpa using hc, h5⟩)
      · rename_i hc
        rcases haudio true h with ⟨h1, h2⟩ | ⟨h1, h2, h3, hd, h4, h5⟩
        · exact .inr (.inl ⟨by omega, .inr h1, h2⟩)
        · exact .inr (.inr ⟨h1, h2, h3, true, hd, h4, by simpa using hc, h5⟩)
      · cases h

/-- The Eof condition arises only at the end of the stream with nothing consumed (R153). -/
theorem parsePass_eof {s : State} {ji : Bool} {v : ParseVars} (h : parsePass s ji v = .ok .eof) :
    v.p = s.strm.esLen.toNat ∧ v.tcSeen = false ∧ v.found = none := by
  have haudio : ∀ rev, passAudio s ji rev v ≠ .ok .eof := by
    intro rev h
    unfold passAudio at h
    repeat' (split at h)
    all_goals simp at h
  unfold parsePass at h
  split at h
  · rename_i hp
    split at h
    · simp at h
    · rename_i hs
      simp only [Bool.or_eq_true, not_or, Bool.not_eq_true] at hs
      exact ⟨hp, hs.1, by simpa using hs.2⟩
  · split at h
    · cases h
    · split at h
      · unfold passTc at h
        repeat' (split at h)
        all_goals simp at h
      · exact absurd h (haudio false)
      · exact absurd h (haudio true)
      · cases h

/-! ## The loop -/

/-- How many more records the loop can consume from these variables. -/
def passesLeft (v : ParseVars) : Nat := (if v.tcSeen then 0 else 1) + (if v.found.isSome then 0 else 1)

theorem passesLeft_again {s : State} {ji : Bool} {v v' : ParseVars} (h : parsePass s ji v = .ok (.again v')) :
    passesLeft v' < passesLeft v := by
  rcases parsePass_again h with ⟨ht, -, -, rfl⟩ | ⟨hf, -, rev, hd, -, -, -, rfl⟩
  · simp [passesLeft, ht]
  · simp [passesLeft, hf]

/-- The bound on the passes is never reached: one more than `passesLeft` gives the same answer as any larger bound. -/
theorem parseLoop_stable (s : State) (ji : Bool) : ∀ (k : Nat) (v : ParseVars), passesLeft v < k →
    parseLoop s ji (k + 1) v = parseLoop s ji k v
  | 0, _, h => absurd h (Nat.not_lt_zero _)
  | k + 1, v, h => by
    rw [parseLoop, parseLoop]
    cases hp : parsePass s ji v with
    | error e => rfl
    | ok r =>
      cases r with
      | eof => rfl
      | leave v' => rfl
      | again v' =>
        have := passesLeft_again hp
        exact parseLoop_stable s ji k v' (by omega)

/-- The loop "ends after at most three records": a larger bound than 3 changes nothing (R154, R377). -/
theorem parseLoop_bound (s : State) (ji : Bool) : ∀ n, parseLoop s ji (n + 3) (parseStart s) = parseLoop s ji 3 (parseStart s)
  | 0 => rfl
  | n + 1 => by
    have hl : passesLeft (parseStart s) < n + 3 := by
      simp only [passesLeft, parseStart]
      simp
    rw [show n + 1 + 3 = (n + 3) + 1 by omega, parseLoop_stable s ji (n + 3) _ hl]
    exact parseLoop_bound s ji n

/-- A property that every pass keeps holds when the loop leaves. `Q` is the property at the end. -/
theorem parseLoop_keeps {s : State} {ji : Bool} (P Q : ParseVars → Prop)
    (hagain : ∀ v v', P v → parsePass s ji v = .ok (.again v') → P v')
    (hleave : ∀ v v', P v → parsePass s ji v = .ok (.leave v') → Q v') :
    ∀ (k : Nat) (v w : ParseVars), passesLeft v < k → P v → parseLoop s ji k v = .ok (some w) → Q w
  | 0, _, _, hk, _, _ => absurd hk (Nat.not_lt_zero _)
  | k + 1, v, w, hk, hv, h => by
    rw [parseLoop] at h
    cases hp : parsePass s ji v with
    | error e => rw [hp] at h; cases h
    | ok r =>
      rw [hp] at h
      cases r with
      | eof => cases h
      | leave v' => cases h; exact hleave v w hv hp
      | again v' =>
        have := passesLeft_again hp
        exact parseLoop_keeps P Q hagain hleave k v' w (by omega) (hagain v v' hv hp) h

theorem passesLeft_start (s : State) : passesLeft (parseStart s) < 3 := by simp [passesLeft, parseStart]

/-- What the variables satisfy when the loop leaves (R154 to R158). -/
structure Parsed (s : State) (ji : Bool) (v : ParseVars) : Prop where
  forward : s.strm.esPos.toNat ≤ v.p
  inside  : s.strm.esPos.toNat ≤ s.strm.esLen.toNat → v.p ≤ s.strm.esLen.toNat
  even    : s.strm.esPos.toNat % 2 = 0 → v.p % 2 = 0
  found   : ∀ f, v.found = some f → s.strm.esPos.toNat ≤ f.start ∧ f.start ≤ v.p ∧
    (s.strm.esPos.toNat % 2 = 0 → f.start % 2 = 0) ∧
    ∃ rev, decodeHeader s.cfg s.conf.alt (esWords s.es rev f.start Config.hdrWords) rev = .ok f.hdr ∧
      classify s.cfg (esWord s.es f.start) = (if rev then .audioRev else .audio) ∧
      (ji = false → f.frame = esWords s.es rev f.start f.hdr.frameWords)

theorem parsed_start (s : State) (ji : Bool) : Parsed s ji (parseStart s) :=
  ⟨Nat.le_refl _, id, id, by simp [parseStart]⟩

/-- The loop keeps `Parsed`. -/
theorem parseLoop_parsed {s : State} {ji : Bool} {w : ParseVars}
    (h : parseLoop s ji 3 (parseStart s) = .ok (some w)) : Parsed s ji w := by
  refine parseLoop_keeps (Parsed s ji) (Parsed s ji) ?_ ?_ 3 (parseStart s) w (passesLeft_start s) (parsed_start s ji) h
  · intro v v' hv hp
    rcases parsePass_again hp with ⟨-, -, hb, rfl⟩ | ⟨-, hji, rev, hd, hde, hc, hb, rfl⟩
    · refine ⟨?_, ?_, ?_, ?_⟩
      · have := hv.forward; simp only []; omega
      · intro _; exact hb
      · intro he; have := hv.even he; simp only []; omega
      · intro f hf
        obtain ⟨h1, h2, h3⟩ := hv.found f hf
        exact ⟨h1, by simp only []; omega, h3⟩
    · refine ⟨?_, ?_, ?_, ?_⟩
      · have := hv.forward; simp only []; omega
      · intro _; exact hb
      · intro he; have := hv.even he; simp only []; omega
      · intro f hf
        cases hf
        exact ⟨hv.forward, by simp only []; omega, hv.even, rev, hde, hc, fun _ => rfl⟩
  · intro v v' hv hp
    rcases parsePass_leave hp with ⟨-, -, rfl⟩ | ⟨-, -, rfl⟩ | ⟨-, hji, hb, rev, hd, hde, hc, rfl⟩
    · exact ⟨hv.forward, hv.inside, hv.even, hv.found⟩
    · exact ⟨hv.forward, hv.inside, hv.even, hv.found⟩
    · refine ⟨?_, ?_, ?_, ?_⟩
      · have := hv.forward; simp only []; omega
      · intro _; exact hb
      · intro he; have := hv.even he; simp only []; omega
      · intro f hf
        cases hf
        exact ⟨hv.forward, by simp only []; omega, hv.even, rev, hde, hc, fun h0 => by simp [hji] at h0⟩

/-! ## The bodies -/

/-- Everything a header operation can commit: the Eof condition, a timeslice without a frame, a header, or a frame. -/
theorem hdrBody_ok {s t : State} {ji : Bool} (h : hdrBody ji s = .ok t) :
    (parseLoop s ji 3 (parseStart s) = .ok none ∧ t = commitEof s) ∨
    ∃ v, parseLoop s ji 3 (parseStart s) = .ok (some v) ∧
      ((v.found = none ∧
          t = { commitPosition s v with
                hdr := { (commitPosition s v).hdr with valid := false, frameValid := false }, result := 0 }) ∨
       (∃ f, v.found = some f ∧ ji = true ∧
          t = { commitPosition s v with hdr := hdrRegsOf s.cfg (commitPosition s v).hdr f false, result := 1 }) ∨
       (∃ f, v.found = some f ∧ ji = false ∧ inMemory 0 f.hdr.frameWords s.cfg.frameCap = true ∧
          t = { commitPosition s v with
                hdr := hdrRegsOf s.cfg (commitPosition s v).hdr f true, frame := s.frame.writeList 0 f.frame, result := 1 })) := by
  unfold hdrBody at h
  split at h
  · cases h
  · rename_i hp; cases h; exact .inl ⟨hp, rfl⟩
  · rename_i v hp
    refine .inr ⟨v, hp, ?_⟩
    unfold commitParse at h
    simp only [] at h
    split at h
    · rename_i hf; cases h; exact .inl ⟨hf, rfl⟩
    · rename_i f hf
      split at h
      · rename_i hji; cases h; exact .inr (.inl ⟨f, hf, hji, rfl⟩)
      · rename_i hji
        split at h
        · cases h
        · rename_i hm
          cases h
          exact .inr (.inr ⟨f, hf, by simpa using hji, by simpa using hm, rfl⟩)

end Sys2Proof.Laws
end

