-- ==== Sys2Proof/Laws/Config.lean ====
section
/-!
SUPPORT. What a well-formed configuration gives (R9, R47, R48, R95, R202, R273; 92_eei_decisions.md Part 2).
-/

namespace Sys2Proof.Laws

open Sys2Proof.Machine

/-- The REF instantiation meets every condition, so the conditions contradict nothing. -/
theorem ref_wellFormed : Cfg.ref.wellFormed = true := by decide +kernel

/-- The machine's configuration meets the spec's conditions. -/
theorem cfg_wellFormed : Config.cfg.wellFormed = true := by
  unfold Config.cfg
  split
  · assumption
  · exact ref_wellFormed

/-- The five groups of conditions. -/
theorem wellFormed_iff (c : Cfg) : c.wellFormed = true ↔
    c.preambleOk = true ∧ c.syncOk = true ∧ c.headerOk = true ∧ c.sizesOk = true ∧ c.capsOk = true := by
  simp [Cfg.wellFormed, and_assoc]

/-- A table with enough rows and entries answers every index below its bounds. -/
theorem tableEntry_isSome {α : Type} {t : List (List α)} {n m f k : Nat} (h : Cfg.tableOk t n m = true) (hf : f < n)
    (hk : k < m) : (tableEntry t f k).isSome = true := by
  simp only [Cfg.tableOk, Bool.and_eq_true, decide_eq_true_eq, List.all_eq_true] at h
  have hft : f < t.length := by omega
  have hm : m ≤ t[f].length := h.2 t[f] (List.mem_take_iff_getElem.2 ⟨f, by omega, rfl⟩)
  have hkl : k < t[f].length := by omega
  simp [tableEntry, hft, hkl]

/-- An entry of a table stands in one of its rows. -/
theorem tableEntry_mem {α : Type} {t : List (List α)} {f k : Nat} {v : α} (h : tableEntry t f k = some v) :
    ∃ row ∈ t, v ∈ row := by
  simp only [tableEntry, Option.bind_eq_some_iff] at h
  obtain ⟨row, hr, hv⟩ := h
  exact ⟨row, List.mem_of_getElem? hr, List.mem_of_getElem? hv⟩

/-- The conditions of R95 on the syncs. -/
theorem syncs {c : Cfg} (h : c.wellFormed = true) :
    c.ac3Sync ≠ swap16 c.ac3Sync ∧ c.tcSync ≠ c.ac3Sync ∧ c.tcSync ≠ swap16 c.ac3Sync ∧
      swap16 c.tcSync ≠ c.ac3Sync ∧ swap16 c.tcSync ≠ swap16 c.ac3Sync ∧ 1 ≤ c.tcRecordWords := by
  have := ((wellFormed_iff c).1 h).2.1
  simpa [Cfg.syncOk, and_assoc] using this

/-- No sync word A is 0, and none is taken for one of a higher priority (R273). -/
theorem preambles {c : Cfg} (h : c.wellFormed = true) :
    c.pa16 ≠ 0 ∧ c.pa20 ≠ 0 ∧ c.pa24 ≠ 0 ∧
    c.pa20.toNat >>> 4 ≠ c.pa16.toNat ∧ c.pa24.toNat >>> 8 ≠ c.pa16.toNat ∧ c.pa24.toNat >>> 4 ≠ c.pa20.toNat := by
  have := ((wellFormed_iff c).1 h).1
  simp only [Cfg.preambleOk, Bool.and_eq_true, bne_iff_ne] at this
  tauto

/-- An announced E-AC-3 frame fits H_FRAMEWORDS and FRAME (R47, R33). -/
theorem eac3_size {c : Cfg} (h : c.wellFormed = true) (hw : List Word16) :
    layoutField c.layout.frmsiz hw + c.eac3FrmsizBias < 2 ^ 16 ∧
      layoutField c.layout.frmsiz hw + c.eac3FrmsizBias ≤ c.frameCap := by
  obtain ⟨-, -, h3, -, h5⟩ := (wellFormed_iff c).1 h
  have hl := layoutField_lt c.layout.frmsiz hw
  simp only [Cfg.headerOk, Cfg.capsOk, Bool.and_eq_true, decide_eq_true_eq] at h3 h5
  omega

/-- A block-count code is one that NUMBLKS has (R99). -/
theorem blockCode_le {c : Cfg} (h : c.wellFormed = true) (hw : List Word16) :
    layoutField c.layout.numblkscod hw ≤ 3 := by
  obtain ⟨-, -, h3, -, -⟩ := (wellFormed_iff c).1 h
  have hl := layoutField_lt c.layout.numblkscod hw
  simp only [Cfg.headerOk, Bool.and_eq_true, decide_eq_true_eq] at h3
  have hp : 2 ^ c.layout.numblkscod.width ≤ 2 ^ 2 := Nat.pow_le_pow_right (by decide) (by tauto)
  omega

/-- An AC-3 frame fits FRAME (R47). -/
theorem ac3_size {c : Cfg} (h : c.wellFormed = true) {f k : Nat} {w : BitVec 16}
    (ht : tableEntry c.ac3FrameWords f k = some w) : w.toNat ≤ c.frameCap := by
  obtain ⟨-, -, -, -, h5⟩ := (wellFormed_iff c).1 h
  obtain ⟨row, hr, hw⟩ := tableEntry_mem ht
  simp only [Cfg.capsOk, Bool.and_eq_true, decide_eq_true_eq, List.all_eq_true] at h5
  exact h5.1.1.2 row hr w hw

/-- The tables have an entry for every pair of codes in range (R162, R250). -/
theorem tables {c : Cfg} (h : c.wellFormed = true) {f k : Nat} (hf : f < c.nFscod) (hk : k < c.nFrmsizecod) :
    (tableEntry c.ac3FrameWords f k).isSome = true ∧ (tableEntry c.altPoint f k).isSome = true := by
  obtain ⟨-, -, h3, -, -⟩ := (wellFormed_iff c).1 h
  simp only [Cfg.headerOk, Bool.and_eq_true] at h3
  obtain ⟨⟨⟨⟨⟨⟨⟨⟨⟨⟨⟨-, ha⟩, hb⟩, -⟩, -⟩, -⟩, -⟩, -⟩, -⟩, -⟩, -⟩, -⟩ := h3
  exact ⟨tableEntry_isSome ha hf hk, tableEntry_isSome hb hf hk⟩

/-- A burst size holds the preamble and the guard, and fits FSBUF (R202, R48). -/
theorem burstSize_bounds {c : Cfg} (h : c.wellFormed = true) {n : Nat} (hn : n ∈ c.burstSizes) :
    9 ≤ n ∧ n ≤ c.fsbufCap := by
  obtain ⟨-, -, -, h4, h5⟩ := (wellFormed_iff c).1 h
  simp only [Cfg.sizesOk, Cfg.capsOk, Bool.and_eq_true, List.all_eq_true, decide_eq_true_eq] at h4 h5
  exact ⟨h4.1.1.1.1.1 n hn, h5.1.1.1 n hn⟩

/-- A Dolby E code other than FRC_2997 has a size (R202). -/
theorem bsDe_isSome {c : Cfg} (h : c.wellFormed = true) {f : Nat} (hf : c.deFrcodes.contains f = true)
    (hne : f ≠ c.frc2997) : (c.bsDe.lookup f).isSome = true := by
  obtain ⟨-, -, -, h4, -⟩ := (wellFormed_iff c).1 h
  simp only [Cfg.sizesOk, Bool.and_eq_true, List.all_eq_true, Bool.or_eq_true, beq_iff_eq] at h4
  have := h4.2 f (by simpa using hf)
  tauto

end Sys2Proof.Laws
end

