-- ==== Sys2Proof/Laws/Decode.lean ====
section
/-!
SUPPORT. The fields of an assembled command word (R110).
-/

namespace Sys2Proof.Laws

variable (op : BitVec 8) (a b c : Word32)

/-- The bits of an assembled command word. -/
theorem getLsbD_cmdWord (i : Nat) : (cmdWord op a b c).getLsbD i =
    if i < 32 then c.getLsbD i else if i < 64 then b.getLsbD (i - 32)
    else if i < 96 then a.getLsbD (i - 64) else op.getLsbD (i - 96) := by
  have h : (cmdWord op a b c).getLsbD i = (op ++ (a ++ (b ++ c))).getLsbD i := rfl
  rw [h, BitVec.getLsbD_append, BitVec.getLsbD_append, BitVec.getLsbD_append]
  by_cases h1 : i < 32
  · simp [h1, show i < 64 by omega, show i < 96 by omega]
  · by_cases h2 : i < 64
    · simp [h1, h2, show i < 96 by omega]
    · by_cases h3 : i < 96
      · simp [h1, h2, h3]
      · simp [h1, h2, h3]

@[simp] theorem cmdOp_cmdWord : cmdOp (cmdWord op a b c) = op := by
  apply BitVec.eq_of_getLsbD_eq
  intro i hi
  rw [cmdOp, BitVec.getLsbD_extractLsb', getLsbD_cmdWord]
  simp [hi, show ¬ 96 + i < 32 by omega, show ¬ 96 + i < 64 by omega]

@[simp] theorem cmdA_cmdWord : cmdA (cmdWord op a b c) = a := by
  apply BitVec.eq_of_getLsbD_eq
  intro i hi
  rw [cmdA, BitVec.getLsbD_extractLsb', getLsbD_cmdWord]
  simp [hi, show ¬ 64 + i < 32 by omega, show 64 + i < 96 by omega]

@[simp] theorem cmdB_cmdWord : cmdB (cmdWord op a b c) = b := by
  apply BitVec.eq_of_getLsbD_eq
  intro i hi
  rw [cmdB, BitVec.getLsbD_extractLsb', getLsbD_cmdWord]
  simp [hi, show 32 + i < 64 by omega]

@[simp] theorem cmdC_cmdWord : cmdC (cmdWord op a b c) = c := by
  apply BitVec.eq_of_getLsbD_eq
  intro i hi
  rw [cmdC, BitVec.getLsbD_extractLsb', getLsbD_cmdWord]
  simp [hi]

/-- A command word is its four fields. -/
theorem cmdWord_fields (w : CmdWord) : cmdWord (cmdOp w) (cmdA w) (cmdB w) (cmdC w) = w := by
  apply BitVec.eq_of_getLsbD_eq
  intro i hi
  simp only [getLsbD_cmdWord, cmdOp, cmdA, cmdB, cmdC, BitVec.getLsbD_extractLsb']
  by_cases h1 : i < 32
  · simp [h1]
  · by_cases h2 : i < 64
    · simp [h1, h2, show i - 32 < 32 by omega, show 32 + (i - 32) = i by omega]
    · by_cases h3 : i < 96
      · simp [h1, h2, h3, show i - 64 < 32 by omega, show 64 + (i - 64) = i by omega]
      · simp [h1, h2, h3, show i - 96 < 8 by omega, show 96 + (i - 96) = i by omega]

end Sys2Proof.Laws
end

