-- ==== Sys2Proof/Laws/Exec.lean ====
section
/-!
SUPPORT. How any operation ends: one function from an operation to its body, and what `exec` and `step` answer in terms
of it.
-/

namespace Sys2Proof.Laws

open Sys2Proof.Machine

/-- What an operation does in a state without a latched fault. -/
def bodyOf : Instr → State → Run
  | .sysReset => fun s => .ok s.enterReset
  | .csrRd reg => fun s =>
    match Reg.ofNumber reg.toNat with
    | some r => .ok { s with result := s.readReg r }
    | none => .error (.raised .illegalOp (unknownRegInfo reg))
  | .csrWr reg value => csrWrBody reg value
  | .buInit depth len => buInitBody depth len
  | .buUnpack numitems numbits => buUnpackBody numitems numbits
  | .buUnkey key numItems => buUnkeyBody key numItems
  | .deParse len depth => deParseBody len depth
  | .hdrParse => hdrBody false
  | .hdrPeek => hdrBody true
  | .bszSize format frc frameIndex => bszSizeBody format frc frameIndex
  | .fsOffer => fsOfferBody
  | .fsFlush => fsFlushBody
  | .fsClear => fsClearBody
  | .burstEnc => burstEncBody
  | .burstEncalt => burstEncaltBody
  | .burstEncde len depth => burstEncdeBody len depth
  | .scanFind => scanFindBody
  | .burstDec => burstDecBody

/-- Every operation but SYS.RESET and CSR.RD is `runOp` of its body. -/
theorem exec_eq_runOp {i : Instr} (h1 : i ≠ .sysReset) (h2 : ∀ a, i ≠ .csrRd a) (s : State) :
    exec i s = runOp s (bodyOf i) := by
  cases i <;> first | exact absurd rfl h1 | exact absurd rfl (h2 _) | rfl

/-- Without a latched fault an operation ends as its body does. -/
theorem exec_running {i : Instr} {s : State} (hr : s.faultFlag = false) : exec i s = finish s (bodyOf i s) := by
  by_cases h1 : i = .sysReset
  · subst h1; rfl
  · by_cases h2 : ∃ a, i = .csrRd a
    · obtain ⟨a, rfl⟩ := h2
      simp only [exec, execCsrRd, bodyOf]
      cases Reg.ofNumber a.toNat <;> simp [runOp_clear hr]
    · rw [exec_eq_runOp h1 (fun a ha => h2 ⟨a, ha⟩), runOp_clear hr]

/-- Under a latched fault SYS.RESET resets, CSR.RD writes the result, and everything else is a no-op (R327). -/
theorem exec_latched {i : Instr} {s t : State} (hf : s.faultFlag = true) (h : exec i s = .next t) :
    (i = .sysReset ∧ t = s.enterReset) ∨ ((∃ a, i = .csrRd a) ∧ ∃ v, t = { s with result := v }) ∨ t = s.noOp := by
  by_cases h1 : i = .sysReset
  · subst h1; cases h; exact .inl ⟨rfl, rfl⟩
  · by_cases h2 : ∃ a, i = .csrRd a
    · obtain ⟨a, rfl⟩ := h2
      simp only [exec, execCsrRd] at h
      cases hn : Reg.ofNumber a.toNat with
      | none => rw [hn] at h; simp only [runOp_latched hf] at h; cases h; exact .inr (.inr rfl)
      | some r => rw [hn] at h; cases h; exact .inr (.inl ⟨⟨_, rfl⟩, _, rfl⟩)
    · rw [exec_eq_runOp h1 (fun a ha => h2 ⟨a, ha⟩), runOp_latched hf] at h
      cases h
      exact .inr (.inr rfl)

/-- Everything an operation that answers a next state can have done: reset; written the result only; committed what its
body commits; or raised. -/
theorem exec_next {i : Instr} {s t : State} (h : exec i s = .next t) :
    t = s.enterReset ∧ i = .sysReset ∨ (∃ v, t = { s with result := v }) ∨
    (s.faultFlag = false ∧ i ≠ .sysReset ∧ bodyOf i s = .ok t) ∨
    (s.faultFlag = false ∧ ∃ k info, bodyOf i s = .error (.raised k info) ∧ t = s.raise k info) := by
  cases hf : s.faultFlag with
  | true =>
    rcases exec_latched hf h with ⟨h1, h2⟩ | ⟨-, h2⟩ | h2
    · exact .inl ⟨h2, h1⟩
    · exact .inr (.inl h2)
    · exact .inr (.inl ⟨0, h2⟩)
  | false =>
    by_cases h1 : i = .sysReset
    · subst h1; cases h; exact .inl ⟨rfl, rfl⟩
    · rw [exec_running hf] at h
      rcases finish_next h with h | h
      · exact .inr (.inr (.inl ⟨rfl, h1, h⟩))
      · exact .inr (.inr (.inr ⟨rfl, h⟩))

/-- An operation ends in a fault of the model exactly when its body does. -/
theorem exec_fault {i : Instr} {s : State} {f : Fault} (h : exec i s = .fault f) :
    s.faultFlag = false ∧ bodyOf i s = .error (.faulted f) := by
  by_cases h1 : i = .sysReset
  · subst h1; cases h
  · by_cases h2 : ∃ a, i = .csrRd a
    · obtain ⟨a, rfl⟩ := h2
      simp only [exec, execCsrRd] at h
      cases hn : Reg.ofNumber a.toNat with
      | none => rw [hn] at h; have := (runOp_fault.1 h).2; cases this
      | some r => rw [hn] at h; cases h
    · rw [exec_eq_runOp h1 (fun a ha => h2 ⟨a, ha⟩)] at h
      exact runOp_fault.1 h

/-- What a step can do: wait, or run the oldest command, an illegal one included. -/
theorem step_cases {s : State} {o : Host.Outcome State Fault Refusal} (h : step s = o) :
    (s.port = [] ∧ o = .next s) ∨ ∃ w rest, s.port = w :: rest ∧
      ((∃ i, decode w = .ok i ∧ exec i { s with port := rest } = o) ∨
       (∃ op, decode w = .error (.illegalOp op) ∧ illegalCommand { s with port := rest } op = o)) := by
  cases hp : s.port with
  | nil => simp only [step, State.takeCommand, hp] at h; exact .inl ⟨rfl, h.symm⟩
  | cons w rest =>
    refine .inr ⟨w, rest, rfl, ?_⟩
    simp only [step, State.takeCommand, hp, runCommand] at h
    cases hd : decode w with
    | ok i => rw [hd] at h; exact .inl ⟨i, rfl, h⟩
    | error e => cases e with | illegalOp op => rw [hd] at h; exact .inr ⟨op, rfl, h⟩

/-- What an illegal command does: nothing but clear the result under a fault, else raise IllegalOp (R113, R327). -/
theorem illegalCommand_next {s t : State} {op : BitVec 8} (h : illegalCommand s op = .next t) :
    (s.faultFlag = true ∧ t = s.noOp) ∨ (s.faultFlag = false ∧ t = s.raise .illegalOp op.toNat) := by
  unfold illegalCommand at h
  rcases runOp_next h with h | ⟨-, h⟩ | ⟨hf, k, i, hk, ht⟩
  · exact .inl h
  · cases h
  · cases hk; exact .inr ⟨hf, ht⟩

/-- Everything a step that answers a next state can have done, `s0` being the machine with the command taken: wait;
reset; write the result only; commit what an operation's body commits; or raise. -/
theorem step_next {s t : State} (h : step s = .next t) : t = s ∨ ∃ rest, s.port ≠ [] ∧
    (t = ({ s with port := rest } : State).enterReset ∨
     (∃ v, t = { s with port := rest, result := v }) ∨
     (∃ i, s.faultFlag = false ∧ i ≠ .sysReset ∧ bodyOf i { s with port := rest } = .ok t) ∨
     (s.faultFlag = false ∧ ∃ k info, t = ({ s with port := rest } : State).raise k info ∧
       (k = .illegalOp ∨ ∃ i, bodyOf i { s with port := rest } = .error (.raised k info)))) := by
  rcases step_cases h with ⟨-, h⟩ | ⟨w, rest, hp, ⟨i, -, h⟩ | ⟨op, -, h⟩⟩
  · cases h; exact .inl rfl
  · refine .inr ⟨rest, by simp [hp], ?_⟩
    rcases exec_next h with ⟨h, -⟩ | h | ⟨hf, h1, h⟩ | ⟨hf, k, info, hb, h⟩
    · exact .inl h
    · exact .inr (.inl h)
    · exact .inr (.inr (.inl ⟨i, hf, h1, h⟩))
    · exact .inr (.inr (.inr ⟨hf, k, info, h, .inr ⟨i, hb⟩⟩))
  · refine .inr ⟨rest, by simp [hp], ?_⟩
    rcases illegalCommand_next h with ⟨-, h⟩ | ⟨hf, h⟩
    · exact .inr (.inl ⟨0, h⟩)
    · exact .inr (.inr (.inr ⟨hf, _, _, h, .inl rfl⟩))

end Sys2Proof.Laws
end

