-- ==== Sys2Proof/Laws/HeaderRecords.lean ====
section
/-!
SUPPORT. The records of one call of a header operation, in the terms of Safety.lean: what each word announces, and that the
parse loop comes to every record that `Reaches` names (R95, R154 to R158).
-/

namespace Sys2Proof.Laws

open Sys2Proof.Machine

variable {s : State} {i : Instr} {p : Nat}

/-! ## What a word announces -/

theorem classify_timecode (h : TimecodeAt s p) : classify s.cfg (esWord s.es p) = .tc := if_pos h

theorem classify_audio (hwf : s.cfg.wellFormed = true) {rev : Bool} (h : AudioAt s p rev) :
    classify s.cfg (esWord s.es p) = if rev then .audioRev else .audio := by
  obtain ⟨h1, h2, h3, h4, h5, -⟩ := syncs hwf
  cases rev with
  | false =>
    have h : esWord s.es p = s.cfg.ac3Sync := h
    rw [classify, h, if_neg (by rintro (h | h) <;> [exact h2 h.symm; exact h4 h.symm]), if_pos rfl]
    rfl
  | true =>
    have h : esWord s.es p = swap16 s.cfg.ac3Sync := h
    rw [classify, h, if_neg (by rintro (h | h) <;> [exact h3 h.symm; exact h5 h.symm]), if_neg h1.symm, if_pos rfl]
    rfl

theorem classify_noSync (h : NoSyncAt s p) : classify s.cfg (esWord s.es p) = .none := by
  have hf : ¬ esWord s.es p = s.cfg.ac3Sync := h.2 false
  have ht : ¬ esWord s.es p = swap16 s.cfg.ac3Sync := h.2 true
  rw [classify, if_neg h.1, if_neg hf, if_neg ht]

/-! ## One pass at a record -/

theorem parsePass_timecode {ji : Bool} {v : ParseVars} (h : TimecodeAt s v.p) (hl : v.p + 2 ≤ s.strm.esLen.toNat) :
    parsePass s ji v = passTc s v := by
  rw [parsePass, if_neg (by omega), if_neg (by omega), classify_timecode h]

theorem parsePass_audio (hwf : s.cfg.wellFormed = true) {ji rev : Bool} {v : ParseVars} (h : AudioAt s v.p rev)
    (hl : v.p + 2 ≤ s.strm.esLen.toNat) : parsePass s ji v = passAudio s ji rev v := by
  rw [parsePass, if_neg (by omega), if_neg (by omega), classify_audio hwf h]
  cases rev <;> rfl

theorem parsePass_noSync {ji : Bool} {v : ParseVars} (h : NoSyncAt s v.p) (hl : v.p + 2 ≤ s.strm.esLen.toNat) :
    parsePass s ji v = .error (.raised .syncError v.p) := by
  rw [parsePass, if_neg (by omega), if_neg (by omega), classify_noSync h]

theorem parsePass_dangling {ji : Bool} {v : ParseVars} (h : v.p + 1 = s.strm.esLen.toNat) :
    parsePass s ji v = .error (.raised .readError v.p) := by
  rw [parsePass, if_neg (by omega), if_pos (by omega)]

/-! ## The loop comes to every record of the call -/

/-- The header operation that reads no frame. -/
def justInfo (i : Instr) : Bool := i == .hdrPeek

/-- A decoded frame is at least as long as its header (R166). -/
theorem headerAt_whole {rev : Bool} {hd : Header} (h : HeaderAt s p rev = .ok hd) : 4 ≤ hd.frameWords :=
  (decodeHeader_ok h).whole

/-- From a record that `Reaches` names, the loop goes on with the variables of that record, and with passes left for every
record it can still consume. -/
theorem parseLoop_reaches (hwf : s.cfg.wellFormed = true) {tc fr : Bool} (h : Reaches s i tc fr p) :
    ∃ (k : Nat) (v : ParseVars), parseLoop s (justInfo i) 3 (parseStart s) = parseLoop s (justInfo i) (k + 1) v ∧
      passesLeft v < k + 1 ∧ v.p = p ∧ v.tcSeen = tc ∧ v.found.isSome = fr := by
  have hpos := (syncs hwf).2.2.2.2.2
  have hagain : ∀ {k : Nat} {v v' : ParseVars}, passesLeft v < k + 1 → parsePass s (justInfo i) v = .ok (.again v') →
      ∃ k', parseLoop s (justInfo i) (k + 1) v = parseLoop s (justInfo i) (k' + 1) v' ∧ passesLeft v' < k' + 1 := by
    intro k v v' hk hp
    have hlt := passesLeft_again hp
    refine ⟨k - 1, ?_, by omega⟩
    rw [parseLoop, hp, show k = k - 1 + 1 by omega]
    rfl
  induction h with
  | start => exact ⟨2, parseStart s, rfl, passesLeft_start s, rfl, rfl, rfl⟩
  | timecode _ ht hl ih =>
    obtain ⟨k, v, he, hk, rfl, htc, hfr⟩ := ih
    obtain ⟨k', he', hk'⟩ := hagain hk (v' := { v with p := v.p + 2 * s.cfg.tcRecordWords, tcSeen := true }) (by
      rw [parsePass_timecode ht (by omega), passTc, htc, if_neg (by decide), if_neg (by omega)])
    exact ⟨k', _, he.trans he', hk', rfl, rfl, hfr⟩
  | @frame tc rev q hd hi _ ha hh hl ih =>
    obtain ⟨k, v, he, hk, rfl, htc, hfr⟩ := ih
    have hw := headerAt_whole hh
    have hji : justInfo i = false := by rw [hi]; rfl
    have hhd : decodeHeader s.cfg s.conf.alt (esWords s.es rev v.p Config.hdrWords) rev = .ok hd := hh
    obtain ⟨k', he', hk'⟩ := hagain hk (v' := { v with
        p := v.p + 2 * hd.frameWords, found := some ⟨v.p, hd, esWords s.es rev v.p hd.frameWords⟩ }) (by
      rw [parsePass_audio hwf ha (by omega), passAudio, if_neg (by simp [hfr]), if_neg (by simp only [Config.hdrWords]; omega),
        hhd, hji]
      simp only [Bool.false_eq_true, if_false]
      rw [if_neg (by omega)])
    exact ⟨k', _, he.trans he', hk', rfl, htc, rfl⟩

/-- What the pass at a record of the call raises is what the operation raises. -/
theorem exec_of_pass (hwf : s.cfg.wellFormed = true) (hi : i = .hdrParse ∨ i = .hdrPeek) (hr : Running s)
    {tc fr : Bool} (h : Reaches s i tc fr p) {kind : ErrKind} {info : Nat}
    (hp : ∀ v : ParseVars, v.p = p → v.tcSeen = tc → v.found.isSome = fr →
      parsePass s (justInfo i) v = .error (.raised kind info)) :
    exec i s = .next (s.raise kind info) := by
  obtain ⟨k, v, he, -, hvp, hvt, hvf⟩ := parseLoop_reaches hwf h
  have hb : hdrBody (justInfo i) s = .error (.raised kind info) := by
    rw [hdrBody, he, parseLoop, hp v hvp hvt hvf]
  have hbody : bodyOf i s = hdrBody (justInfo i) s := by rcases hi with rfl | rfl <;> rfl
  rw [exec_running hr, hbody, hb]
  rfl

end Sys2Proof.Laws
end

