-- ==== Sys2Proof/Laws/PerInstr.lean ====
section
/-!
SUPPORT. Statements made per instruction: the op field of an instruction's word is the code of its row (R111).
-/

namespace Sys2Proof.Laws

/-- The operation code of each row of R111. -/
def opCode : Instr → BitVec 8
  | .sysReset => 0x01
  | .csrRd _ => 0x02
  | .csrWr _ _ => 0x03
  | .buInit _ _ => 0x10
  | .buUnpack _ _ => 0x11
  | .buUnkey _ _ => 0x12
  | .deParse _ _ => 0x18
  | .hdrParse => 0x20
  | .hdrPeek => 0x21
  | .bszSize _ _ _ => 0x28
  | .fsOffer => 0x30
  | .fsFlush => 0x31
  | .fsClear => 0x32
  | .burstEnc => 0x38
  | .burstEncalt => 0x39
  | .burstEncde _ _ => 0x3A
  | .scanFind => 0x40
  | .burstDec => 0x41

/-- The assembled word carries the row's operation code. -/
def EncodeOp.Statement (i : Instr) : Prop := cmdOp (encode i) = opCode i

theorem EncodeOp.sysReset : EncodeOp.Statement .sysReset := cmdOp_cmdWord ..
theorem EncodeOp.csrRd (reg : Word32) : EncodeOp.Statement (.csrRd reg) := cmdOp_cmdWord ..
theorem EncodeOp.csrWr (reg value : Word32) : EncodeOp.Statement (.csrWr reg value) := cmdOp_cmdWord ..
theorem EncodeOp.buInit (depth len : Word32) : EncodeOp.Statement (.buInit depth len) := cmdOp_cmdWord ..
theorem EncodeOp.buUnpack (numitems numbits : Word32) : EncodeOp.Statement (.buUnpack numitems numbits) := cmdOp_cmdWord ..
theorem EncodeOp.buUnkey (key numItems : Word32) : EncodeOp.Statement (.buUnkey key numItems) := cmdOp_cmdWord ..
theorem EncodeOp.deParse (len depth : Word32) : EncodeOp.Statement (.deParse len depth) := cmdOp_cmdWord ..
theorem EncodeOp.hdrParse : EncodeOp.Statement .hdrParse := cmdOp_cmdWord ..
theorem EncodeOp.hdrPeek : EncodeOp.Statement .hdrPeek := cmdOp_cmdWord ..
theorem EncodeOp.bszSize (format frc frameIndex : Word32) : EncodeOp.Statement (.bszSize format frc frameIndex) := cmdOp_cmdWord ..
theorem EncodeOp.fsOffer : EncodeOp.Statement .fsOffer := cmdOp_cmdWord ..
theorem EncodeOp.fsFlush : EncodeOp.Statement .fsFlush := cmdOp_cmdWord ..
theorem EncodeOp.fsClear : EncodeOp.Statement .fsClear := cmdOp_cmdWord ..
theorem EncodeOp.burstEnc : EncodeOp.Statement .burstEnc := cmdOp_cmdWord ..
theorem EncodeOp.burstEncalt : EncodeOp.Statement .burstEncalt := cmdOp_cmdWord ..
theorem EncodeOp.burstEncde (len depth : Word32) : EncodeOp.Statement (.burstEncde len depth) := cmdOp_cmdWord ..
theorem EncodeOp.scanFind : EncodeOp.Statement .scanFind := cmdOp_cmdWord ..
theorem EncodeOp.burstDec : EncodeOp.Statement .burstDec := cmdOp_cmdWord ..

end Sys2Proof.Laws
end

