-- ==== Sys2Proof/Laws/SyncScan.lean ====
section
/-!
SUPPORT. What the scan loop finds (R271 to R275 of 47_sync_scan_decode.md), and what SCAN.FIND and BURST.DEC can do.
-/

namespace Sys2Proof.Laws

open Sys2Proof.Machine

/-- Words `p` and `p + 1` are a Pa and a Pb under one hypothesis, the first under which the container at `p` matches. -/
def Matches (cfg : Cfg) (pcm : Memory 32) (p : Nat) (h : DataMode) : Prop :=
  hyp cfg (pcm.read p) = some h ∧ rj (pcm.read (p + 1)) h.bits = pbOf cfg h

variable {cfg : Cfg} {pcm : Memory 32} {len : Nat}

/-- One pass of the loop that does not match goes on at the next word (R271, R274). -/
theorem scanLoop_skip {k p : Nat} (hp : p + 1 < len) (hn : ∀ h, ¬ Matches cfg pcm p h) :
    scanLoop cfg pcm len (k + 1) p = scanLoop cfg pcm len k (p + 1) := by
  rw [scanLoop]
  cases hh : hyp cfg (pcm.read p) with
  | none => rfl
  | some h =>
    have hb : rj (pcm.read (p + 1)) h.bits ≠ pbOf cfg h := fun hb => hn h ⟨hh, hb⟩
    simp [show ¬ len ≤ p + 1 by omega, hb]

/-- The scan stops at the first match: it locks there, or the preamble is truncated (R271, R275). -/
theorem scanLoop_first {h : DataMode} : ∀ (k p q : Nat), p ≤ q → q + 1 < len → p + k = len → Matches cfg pcm q h →
    (∀ j, p ≤ j → j < q → ∀ h', ¬ Matches cfg pcm j h') →
    scanLoop cfg pcm len k p = if len ≤ q + 3 then .truncated q else .lock q h
  | 0, p, q, hpq, hq, hk, _, _ => by omega
  | k + 1, p, q, hpq, hq, hk, hm, hn => by
    by_cases he : p = q
    · subst he
      rw [scanLoop, hm.1]
      simp [show ¬ len ≤ p + 1 by omega, hm.2]
    · rw [scanLoop_skip (by omega) (hn p (Nat.le_refl _) (by omega))]
      exact scanLoop_first k (p + 1) q (by omega) hq (by omega) hm (fun j h1 h2 => hn j (by omega) h2)

/-- A scan without a match ends with Eof (R272). -/
theorem scanLoop_eof : ∀ (k p : Nat), p + k = len → (∀ j, p ≤ j → j + 1 < len → ∀ h', ¬ Matches cfg pcm j h') →
    scanLoop cfg pcm len k p = .eof
  | 0, _, _, _ => rfl
  | k + 1, p, hk, hn => by
    by_cases hp : p + 1 < len
    · rw [scanLoop_skip hp (hn p (Nat.le_refl _) hp)]
      exact scanLoop_eof k (p + 1) (by omega) (fun j h1 h2 => hn j (by omega) h2)
    · have hk0 : k = 0 := by omega
      subst hk0
      rw [scanLoop]
      cases hyp cfg (pcm.read p) with
      | none => rfl
      | some h => simp [show len ≤ p + 1 by omega]

/-- What a lock says (R271). -/
theorem scanLoop_lock {h : DataMode} : ∀ {k p q : Nat}, scanLoop cfg pcm len k p = .lock q h →
    p ≤ q ∧ q + 3 < len ∧ Matches cfg pcm q h ∧ ∀ j, p ≤ j → j < q → ∀ h', ¬ Matches cfg pcm j h'
  | 0, _, _, he => by cases he
  | k + 1, p, q, he => by
    have hnext : (∀ h', ¬ Matches cfg pcm p h') → scanLoop cfg pcm len k (p + 1) = .lock q h →
        p ≤ q ∧ q + 3 < len ∧ Matches cfg pcm q h ∧ ∀ j, p ≤ j → j < q → ∀ h', ¬ Matches cfg pcm j h' := by
      intro hn hl
      obtain ⟨h1, h2, h3, h4⟩ := scanLoop_lock hl
      refine ⟨by omega, h2, h3, fun j hj1 hj2 => ?_⟩
      by_cases hj : j = p
      · subst hj; exact hn
      · exact h4 j (by omega) hj2
    rw [scanLoop] at he
    cases hh : hyp cfg (pcm.read p) with
    | none =>
      rw [hh] at he
      exact hnext (fun h' hm => by rw [hm.1] at hh; cases hh) he
    | some h0 =>
      rw [hh] at he
      simp only [] at he
      by_cases h1 : len ≤ p + 1
      · rw [if_pos h1] at he; cases he
      · rw [if_neg h1] at he
        by_cases h2 : rj (pcm.read (p + 1)) h0.bits ≠ pbOf cfg h0
        · rw [if_pos h2] at he
          refine hnext (fun h' hm => ?_) he
          rw [hm.1] at hh
          cases hh
          exact h2 hm.2
        · rw [if_neg h2] at he
          by_cases h3 : len ≤ p + 3
          · rw [if_pos h3] at he; cases he
          · rw [if_neg h3] at he
            cases he
            exact ⟨Nat.le_refl _, by omega, ⟨hh, by simpa using h2⟩, fun j hj1 hj2 => by omega⟩

/-- What SCAN.FIND can commit: the Eof condition, or a lock (R271, R272). -/
theorem scanFindBody_ok {s t : State} (h : scanFindBody s = .ok t) :
    t = scanEof s ∨ ∃ p m, scanLoop s.cfg s.pcm s.strm.pcmLen.toNat (s.strm.pcmLen.toNat - s.strm.pcmPos.toNat)
        s.strm.pcmPos.toNat = .lock p m ∧ t = scanLock s p m := by
  unfold scanFindBody at h
  simp only [] at h
  split at h
  · cases h; exact .inl rfl
  · cases h
  · rename_i p m hl; cases h; exact .inr ⟨p, m, hl, rfl⟩

/-- What BURST.DEC commits (R280). -/
theorem burstDecBody_ok {s t : State} (h : burstDecBody s = .ok t) :
    s.sc.locked = true ∧ s.strm.pcmPos.toNat + extractWords s.sc ≤ s.strm.pcmLen.toNat ∧
      t = extractBurst s (extractWords s.sc) := by
  unfold burstDecBody at h
  split at h
  · cases h
  · rename_i hl
    split at h
    · cases h
    · cases h
      exact ⟨by simpa using hl, by omega, rfl⟩

end Sys2Proof.Laws
end

