-- ==== Sys2Proof/Tests/Slice0.lean ====
section
/-!
SUPPORT. Tests: a command word written out for every constructor, the smoke test of `Instr.wellFormed`, one or two steps
for each operation with the outcome the spec's vectors give (95_test_vectors.md; the vector or rule stands in each
comment), and for every statement that has hypotheses a state and operands that meet them (`witness_...`).

The configuration of the tests is the REF instantiation (assumption log 16).
-/

namespace Sys2Proof.Tests

open Sys2Proof.Machine

-- One proof at a time: the tests are many and small.
set_option Elab.async false

/-! ## Decoding: words written out from R110 and R111 -/

theorem test_decode_sysReset : decode 0x01000000000000000000000000 = .ok .sysReset := by decide
theorem test_decode_csrRd : decode 0x02000000580000000000000000 = .ok (.csrRd 0x58) := by decide
theorem test_decode_csrWr : decode 0x03000000010000000D00000000 = .ok (.csrWr 1 13) := by decide
theorem test_decode_buInit : decode 0x10000000100000000200000000 = .ok (.buInit 16 2) := by decide
theorem test_decode_buUnpack : decode 0x11000000010000000C00000000 = .ok (.buUnpack 1 12) := by decide
theorem test_decode_buUnkey : decode 0x12ABFF00FF0000000200000000 = .ok (.buUnkey 0xABFF00FF 2) := by decide
theorem test_decode_deParse : decode 0x18000000090000001000000000 = .ok (.deParse 9 16) := by decide
theorem test_decode_hdrParse : decode 0x20000000000000000000000000 = .ok .hdrParse := by decide
theorem test_decode_hdrPeek : decode 0x21000000000000000000000000 = .ok .hdrPeek := by decide
theorem test_decode_bszSize : decode 0x28000000020000000400000007 = .ok (.bszSize 2 4 7) := by decide
theorem test_decode_fsOffer : decode 0x30000000000000000000000000 = .ok .fsOffer := by decide
theorem test_decode_fsFlush : decode 0x31000000000000000000000000 = .ok .fsFlush := by decide
theorem test_decode_fsClear : decode 0x32000000000000000000000000 = .ok .fsClear := by decide
theorem test_decode_burstEnc : decode 0x38000000000000000000000000 = .ok .burstEnc := by decide
theorem test_decode_burstEncalt : decode 0x39000000000000000000000000 = .ok .burstEncalt := by decide
theorem test_decode_burstEncde : decode 0x3A000000060000001400000000 = .ok (.burstEncde 6 20) := by decide
theorem test_decode_scanFind : decode 0x40000000000000000000000000 = .ok .scanFind := by decide
theorem test_decode_burstDec : decode 0x41000000000000000000000000 = .ok .burstDec := by decide

/-- Y10, Y11, Y12: illegal op values are rejected by name. -/
theorem test_decode_illegal :
    decode 0 = .error (.illegalOp 0) ∧ decode 0x13000000010000000200000003 = .error (.illegalOp 0x13) ∧
    decode 0xFFFFFFFFFFFFFFFFFFFFFFFFFF = .error (.illegalOp 0xFF) := by decide

/-- R113: fields marked "-" are ignored. -/
theorem test_decode_ignores_dash : decode 0x20FFFFFFFF1234567800000001 = .ok .hdrParse := by decide

/-- R116: the spec's own example of assembling. -/
theorem test_encode_bszSize : encode (.bszSize 2 4 7) = 0x28000000020000000400000007 := by decide

/-- The table's numbering: 104 bits of one word; the bits above `nbits` are 0. -/
theorem test_decodeTableWord : decodeTableWord 104 0x02000000580000000000000000 = some (.csrRd 0x58) ∧
    decodeTableWord 96 0x02000000580000000000000000 = none := by decide

/-- `withFetchWord` puts the word where `step` takes its next command. -/
theorem test_withFetchWord :
    (State.reset.withFetchWord 104 0x02000000580000000000000000).port = [cmdWord 0x02 0x58 0 0] := by decide

/-! ## WellFormed: an ill-formed term for each check -/

theorem test_wellFormed_buInit : (Instr.buInit 18 2).wellFormed = false := by decide
theorem test_wellFormed_deParse : (Instr.deParse 9 18).wellFormed = false := by decide
theorem test_wellFormed_burstEncde : (Instr.burstEncde 6 0).wellFormed = false := by decide
theorem test_wellFormed_numbits_zero : (Instr.buUnpack 1 0).wellFormed = false := by decide
theorem test_wellFormed_numbits_over : (Instr.buUnpack 1 33).wellFormed = false := by decide
theorem test_wellFormed_accepts : (Instr.buInit 24 2).wellFormed ∧ (Instr.buUnpack 1 32).wellFormed := by decide

/-! ## Helpers -/

/-- The machine after reset under the REF instantiation. -/
def ref : State := { State.reset with cfg := Cfg.ref }

/-- The next state, if there is one. -/
def after (i : Instr) (s : State) : Option State :=
  match exec i s with
  | .next t => some t
  | _ => none

/-- What the named registers read after the operation. -/
def regsAfter (i : Instr) (s : State) (rs : List Reg) : Option (List Nat) :=
  (after i s).map fun t => rs.map t.regValue

/-- The operation raised, with this ERRCODE and ERRINFO. -/
def raised (i : Instr) (s : State) (code info : Nat) : Bool :=
  match exec i s with
  | .next t => decide (t = raisedState s (BitVec.ofNat 8 code) info)
  | _ => false

/-- The unpacker initialised with `words` of depth `m`, the cursor at (wp, bp). -/
def unpacking (words : List Container) (m : DataMode) (wp : Nat) (bp : Nat) : State :=
  { ref with
    debuf := Memory.ofList words
    bu := { depth := some m, len := BitVec.ofNat 32 words.length, wp := BitVec.ofNat 32 wp, bp := BitVec.ofNat 5 bp } }

/-- The words of DEFRAME of vectors D-1 (keyed, N = 16) and D-4 (not keyed, N = 16). -/
def frameD1 : List Container :=
  [0xF8720000, 0x4E1F0000, 0x001C0000, 0x00500000, 0x078F0000, 0xA5A50000, 0xB5AC0000, 0xF1A50000, 0xB7910000]
def frameD4 : List Container := [0, 0, 0, 0, 0x12340000, 0x10440000, 0x50000000]

/-- An E-AC-3 frame of four words, its byte-reversed form, and a REF timecode record. -/
def eac : List Byte := [0x0B, 0x77, 0x00, 0x03, 0x14, 0x80, 0x00, 0x00]
def eacRev : List Byte := [0x77, 0x0B, 0x03, 0x00, 0x80, 0x14, 0x00, 0x00]
def tc : List Byte := [0x01, 0x10] ++ List.replicate 14 0xAA

/-- The header of `eac`. -/
def eacHeader (rev : Bool) : Header :=
  { kind := .eac3, bsid := 16, fscod := 0, frmsizecod := 0, frameWords := 4, blocks := 2, strmtyp := .indep,
    substreamid := 0, byterev := rev }

/-- A frame of `fw` words and `blocks` blocks stands in H_* and FRAME, with the burst size set. -/
def offering (fw blocks size : Nat) (fs : FsRegs) : State :=
  { ref with
    hdr := { HdrRegs.reset with
      valid := true, frameValid := true, kind := .eac3, frameWords := BitVec.ofNat 16 fw, blocks := BitVec.ofNat 3 blocks
      start := 1536 }
    bsz := { BszRegs.reset with size := BitVec.ofNat 32 size, valid := true }
    fs := fs }

/-- A set of `n` frames that holds `words` words and `blocks` blocks of frames of two. -/
def setOf (n words blocks : Nat) : FsRegs :=
  { FsRegs.reset with words := words, nframes := n, blocks := BitVec.ofNat 4 blocks, bpf := 2, format := .eac3 }

/-- A closed set of the given format and words, and a burst size. -/
def closed (format : ElemKind) (words : List Word16) (size : Nat) (cfg : Cfg) : State :=
  { ref with
    cfg := cfg
    fsbuf := Memory.ofList words
    fs := { FsRegs.reset with
      state := .complete, words := words.length, nframes := 1, blocks := 6, bpf := 6, format := format }
    bsz := { BszRegs.reset with size := BitVec.ofNat 32 size, valid := true } }

/-- REF with every ALT_POINT at `t`. -/
def withAltPoint (t : Nat) : Cfg := { Cfg.ref with altPoint := List.replicate 3 (List.replicate 38 t) }

/-- A Dolby E frame in DEFRAME and a burst size. -/
def dolbyE (words : List Container) (size : Nat) : State :=
  { ref.loadDeframe words with bsz := { BszRegs.reset with size := BitVec.ofNat 32 size, valid := true } }

/-- The carrier of R279. -/
def carrier : List Container :=
  [0xF8720000, 0x12340000, 0, 0x6F872000, 0x54E1F000, 0x003C0000, 0x00028000, 0xABCDE000, 0x12345000, 0]

/-- A lock of mode `m` with Pd = `pd` and the cursor at `pos`, on the given carrier. -/
def lockedOn (words : List Container) (m : DataMode) (pd pos : Nat) : State :=
  let s := ref.loadPcm words
  { s with
    sc := { ScanRegs.reset with locked := true, mode := some m, pd := BitVec.ofNat 24 pd }
    strm := { s.strm with pcmPos := BitVec.ofNat 32 pos } }

/-- A machine with a latched SyncError at offset 768, and a warning counted before it. -/
def latched : State := { ref with stat := { status := 3, errCode := 2, errInfo := 768, warnCount := 1 } }

/-! ## One step of each operation -/

/-- Y15. -/
theorem test_sysReset : regsAfter .sysReset { latched with conf := { ConfRegs.reset with cw := 24, alt := true } }
    [.status, .errcode, .errinfo, .warnCount, .cfgCw, .cfgAlt] = some [0, 0, 0, 0, 16, 0] := by decide
/-- R309: CSR.RD works while the fault is latched. -/
theorem test_csrRd : (after (.csrRd 0x0A) latched).map State.result = some 768 := by decide +kernel
/-- Y8. -/
theorem test_csrRd_unknown : raised (.csrRd 0xABC12345) ref 10 0x12345 := by decide +kernel
/-- Y3. -/
theorem test_csrWr : regsAfter (.csrWr 1 13) ref [.cfgStreamnum] = some [5] := by decide +kernel
/-- Y6. -/
theorem test_csrWr_read_only : raised (.csrWr 8 0) ref 10 0x20008 := by decide +kernel
/-- B1. -/
theorem test_buInit : (after (.buInit 16 2) (ref.loadDeframe [0xABCD0000, 0x12340000])).map
    (fun t => (t.debuf.readList 0 2, t.bu)) =
    some ([0xABCD0000, 0x12340000], { depth := some .m16, len := 2, wp := 0, bp := 0 }) := by decide +kernel
/-- B3: a field that spans two words. -/
theorem test_buUnpack : (after (.buUnpack 1 12) (unpacking [0xABCD0000, 0x12340000] .m16 0 8)).map
    (fun t => (t.buout.read 0, t.result, t.bu.wp, t.bu.bp)) = some (0xCD1, 0xCD1, 1, 4) := by decide +kernel
/-- B6. -/
theorem test_buUnpack_short : raised (.buUnpack 2 15) (unpacking [0xABCD0000, 0x12340000] .m16 0 3) 1 3 := by
  decide +kernel
/-- B10: the key is reduced to 24 bits, and the start is the word behind a cursor inside a word. -/
theorem test_buUnkey : (after (.buUnkey 0xABFF00FF 2) (unpacking [0x11111100, 0x222222AB, 0x33333300] .m24 0 1)).map
    (fun t => t.debuf.readList 0 3) = some [0x11111100, 0xDD22DDAB, 0xCC33CC00] := by decide +kernel
/-- B11. -/
theorem test_buUnkey_short : raised (.buUnkey 1 2) (unpacking [0x11111100, 0x222222AB, 0x33333300] .m24 1 1) 1 2 := by
  decide +kernel
/-- D-1: a keyed frame. -/
theorem test_deParse_keyed : (after (.deParse 9 16) (ref.loadDeframe frameD1)).map (fun t =>
    (t.debuf.readList 6 3, [Reg.deSyncf, .deKey, .deRevid, .deSegsize, .deProgcfg, .deFrcode, .buWp, .buBp, .status].map
      t.regValue)) =
    some ([0x10090000, 0x54000000, 0x12340000], [0x3C7, 0xA5A5, 1, 2, 0x15, 4, 7, 8, 0]) := by decide +kernel
/-- D-4: a frame that is not keyed, with the warning. -/
theorem test_deParse_warns : regsAfter (.deParse 7 16) (ref.loadDeframe frameD4)
    [.deSyncf, .deKeypresent, .deRevid, .deSegsize, .deProgcfg, .deFrcode, .buWp, .buBp, .status, .warnCount] =
    some [0x91A, 0, 1, 17, 5, 0, 6, 8, 2, 1] := by decide +kernel
/-- R158, row `T F T`: a timecode record and a frame, byte reversed. -/
theorem test_hdrParse : regsAfter .hdrParse (ref.loadEs (tc ++ eacRev ++ tc))
    [.hValid, .hFramewords, .hByterev, .hTcseen, .hStart, .hConsumed, .esPos, .hStop, .frameValid] =
    some [1, 4, 1, 1, 16, 24, 24, 1, 1] := by decide +kernel
/-- H24 (with a frame of four words): the word behind the frame is no sync. -/
theorem test_hdrParse_no_sync : raised .hdrParse (ref.loadEs (eac ++ [0x12, 0x34])) 2 8 := by decide +kernel
/-- R170 (c). -/
theorem test_hdrPeek : regsAfter .hdrPeek (ref.loadEs [0x0B, 0x77, 0x02, 0xFF, 0x14, 0x80, 0x00, 0x00])
    [.hKind, .hBsid, .hFramewords, .hBlocks, .hStrmtyp, .esPos, .hStop] = some [1, 16, 768, 2, 0, 8, 3] := by
  decide +kernel
/-- A field of two ranges, h1[1:0] ++ h2[15:14], is 0b10 ++ 0b11; and LAYOUT may hold such a field. -/
theorem test_layoutField_two_words : layoutField ⟨[⟨1, 1, 0⟩, ⟨2, 15, 14⟩]⟩ [0, 0xFFFE, 0xC000, 0] = 11 ∧
    ({ Cfg.ref with layout := { Cfg.refLayout with substreamid := ⟨[⟨1, 11, 11⟩, ⟨3, 1, 0⟩]⟩ } } : Cfg).wellFormed = true := by
  decide +kernel
/-- H19. -/
theorem test_hdrPeek_bad_rate : raised .hdrPeek (ref.loadEs [0x0B, 0x77, 0x00, 0x00, 0x26, 0x40, 0x00, 0x00]) 4 38 := by
  decide +kernel
/-- Z8: index 0xFFFFFFFE mod 5 = 4. -/
theorem test_bszSize : regsAfter (.bszSize 2 4 0xFFFFFFFE) ref [.bszSize, .bszValid] = some [3202, 1] := by
  decide +kernel
/-- Z12. -/
theorem test_bszSize_format : raised (.bszSize 0x1234 0 0) ref 9 0x134 := by decide +kernel
/-- A7: the bound is met exactly. -/
theorem test_fsOffer : regsAfter .fsOffer (offering 4 2 3072 (setOf 1 3060 2))
    [.fsWords, .fsNframes, .fsBlocks, .fsState, .hValid] = some [3064, 2, 4, 0, 0] := by decide +kernel
/-- A15. -/
theorem test_fsOffer_flushes : regsAfter .fsOffer (offering 384 6 3072 (setOf 1 768 2))
    [.fsState, .esPos, .hValid, .frameValid, .fsWords, .fsNframes, .status] = some [2, 1536, 0, 0, 768, 1, 0] := by
  decide +kernel
/-- A18. -/
theorem test_fsFlush : regsAfter .fsFlush (offering 4 2 3072 (setOf 2 1024 4)) [.fsState, .fsWords] =
    some [2, 1024] := by decide +kernel
/-- A20. -/
theorem test_fsClear : regsAfter .fsClear (offering 4 2 3072 (setOf 2 1024 4)) [.fsState, .fsWords, .fsNframes, .hValid] =
    some [0, 0, 0, 1] := by decide +kernel
/-- E3, with a set of two words and a burst of nine: Pd = 32. -/
theorem test_burstEnc : (after .burstEnc { closed .eac3 [0x0B77, 0xFFFF] 9 Cfg.ref with
      conf := { ConfRegs.reset with streamNum := 7 } }).map (fun t => t.burstout) =
    some [0xF8720000, 0x4E1F0000, 0xE0100000, 0x00200000, 0x0B770000, 0xFFFF0000, 0, 0, 0] := by decide +kernel
/-- E6. -/
theorem test_burstEnc_size : raised .burstEnc (closed .ac3 (List.replicate 6 1) 9 Cfg.ref) 7 6 := by decide +kernel
/-- E9, with a set of two words, T = 8 and a burst of ten. -/
theorem test_burstEncalt : (after .burstEncalt (closed .ac3 [0x0B77, 0xFFFF] 10 (withAltPoint 8))).map
    (fun t => t.burstout) = some [0, 0, 0xF8720000, 0x4E1F0000, 0x00010000, 0x00200000, 0x0B770000, 0xFFFF0000, 0, 0] := by
  decide +kernel
/-- E14. -/
theorem test_burstEncalt_format : raised .burstEncalt (closed .eac3 [0x0B77] 10 (withAltPoint 8)) 9 2 := by decide +kernel
/-- E16, with a burst of nine words. -/
theorem test_burstEncde : (after (.burstEncde 6 24) { dolbyE [9, 9, 9, 9, 0x111111FF, 0x22222200] 9 with
      conf := { ConfRegs.reset with streamNum := 7 } }).map (fun t => (t.burstout, t.bsz.deIndex, t.strm.outCw)) =
    some ([0x96F87200, 0xA54E1F00, 0xE05C0000, 0x00003000, 0x111111FF, 0x22222200, 0, 0, 0], 1, 32) := by decide +kernel
/-- E18. -/
theorem test_burstEncde_short : raised (.burstEncde 3 16) (dolbyE [] 3200) 1 3 := by decide +kernel
/-- R279. -/
theorem test_scanFind : regsAfter .scanFind (ref.loadPcm carrier)
    [.scMode, .scPc, .scPd, .scType, .scPapos, .pcmPos, .scLocked, .stFinds] = some [20, 0x3C, 40, 2, 3, 7, 1, 1] := by
  decide +kernel
/-- X5. -/
theorem test_scanFind_truncated : raised .scanFind (ref.loadPcm [0xF8720000, 0x4E1F0000, 0x00010000]) 1 0 := by
  decide +kernel
/-- R285. -/
theorem test_burstDec : (after .burstDec { lockedOn carrier .m20 40 7 with conf := { ConfRegs.reset with cw := 24 } }).map
    (fun t => (t.payout, [Reg.decWords, .decBytes, .pcmPos, .scLocked].map t.regValue)) =
    some ([0xABCDE000, 0x12345000], [2, 6, 9, 0]) := by decide +kernel
/-- X6: the payload is not there. -/
theorem test_burstDec_short : raised .burstDec (lockedOn [0xF8720000, 0x4E1F0000, 0x00010000, 0x00100000] .m16 16 4) 1 4 := by
  decide +kernel

/-! ## Witnesses: the hypotheses of each statement are met

One theorem for each statement with hypotheses; where a statement has several clauses, its parts meet them in their order,
at boundary values. -/

/-- The machine with one command on the port. -/
def issuing (w : CmdWord) (s : State) : State := { s with port := [w] }

theorem witness_IllegalCommandWords :
    ((issuing 0 ref).port = [0] ∧ Running (issuing 0 ref) ∧ ¬ ∃ i, decode 0 = .ok i) ∧
    (¬ ∃ i, decode (cmdWord 0x42 0 0 0) = .ok i) ∧ (0x27 : BitVec 8) ≠ 0x28 ∧
    (0x04 : BitVec 8) ∉ [0x03, 0x10, 0x11, 0x12, 0x18, 0x28, 0x3A] ∧
    (0x01 : BitVec 8) ∉ [0x02, 0x03, 0x10, 0x11, 0x12, 0x18, 0x28, 0x3A] := by
  refine ⟨⟨rfl, by decide, ?_⟩, ?_, by decide, by decide, by decide⟩
  · rintro ⟨i, h⟩; rw [show decode 0 = .error (.illegalOp 0) by decide] at h; cases h
  · rintro ⟨i, h⟩; rw [show decode (cmdWord 0x42 0 0 0) = .error (.illegalOp 0x42) by decide] at h; cases h

theorem witness_StepRunsTheDecodedCommand :
    (issuing (cmdWord 0x02 0x58 0 0) ref).port = [cmdWord 0x02 0x58 0 0] ∧
    decode (cmdWord 0x02 0x58 0 0) = .ok (.csrRd 0x58) ∧ ref.port = [] := by decide

/-- SYS.RESET, CSR.RD of the last register and of no register, and an illegal word. -/
theorem witness_FaultedMachineIgnoresCommands :
    (issuing (cmdWord 1 0 0 0) latched).faultFlag = true ∧ cmdOp (cmdWord 1 0 0 0) = 0x01 ∧
    cmdOp (cmdWord 2 0x7B 0 0) = 0x02 ∧ Reg.stLastpd.number = (cmdA (cmdWord 2 0x7B 0 0)).toNat ∧
    Reg.ofNumber (cmdA (cmdWord 2 0x7C 0 0)).toNat = none ∧
    cmdOp (cmdWord 0 0 0 0) ≠ 0x01 ∧ cmdOp (cmdWord 0 0 0 0) ≠ 0x02 := by decide +kernel

theorem witness_RaisingCommitsNothing :
    ∃ t, Running ref ∧ exec (.csrWr 8 0) ref = .next t ∧ t.faultFlag = true := ⟨_, by decide, rfl, by decide +kernel⟩

theorem witness_StatusBitsAreSticky :
    ∃ t, exec .fsClear latched = .next t ∧ Instr.fsClear ≠ .sysReset ∧ latched.faultFlag = true ∧
      latched.warnFlag = true ∧ Instr.fsClear ≠ .hdrParse ∧ Instr.fsClear ≠ .hdrPeek ∧ Instr.fsClear ≠ .scanFind :=
  ⟨_, rfl, by decide, by decide, by decide, by decide, by decide, by decide⟩

theorem witness_RefusedOutsideTheContract :
    (Running ref ∧ (Instr.buInit 18 2).wellFormed = false) ∧
    ((17 : Word32) ∉ [16, 20, 24]) ∧
    ((24 : Word32) ∈ [16, 20, 24] ∧ ref.cfg.debufCap < (4097 : Word32).toNat) ∧
    ((16 : Word32) ∈ [16, 20, 24] ∧ (4096 : Word32).toNat ≤ ref.cfg.debufCap ∧ ref.bsz.valid = false) ∧
    ref.bu.depth = none ∧
    ((unpacking [] .m16 0 0).bu.depth ≠ none ∧ Running (unpacking [] .m16 0 0)) ∧
    ((33 : Word32).toNat = 0 ∨ 32 < (33 : Word32).toNat) ∧
    (1 ≤ (32 : Word32).toNat ∧ (32 : Word32).toNat ≤ 32 ∧ (unpacking [] .m16 0 0).cfg.buoutCap < (4097 : Word32).toNat) ∧
    ((closed .ac3 [] 9 Cfg.ref).fs.state ≠ .accumulating ∧ Running (closed .ac3 [] 9 Cfg.ref)) ∧
    (ref.fs.state = .accumulating ∧ (ref.hdr.valid = false ∨ ref.hdr.frameValid = false)) ∧
    (let s := { offering 4 2 9 FsRegs.reset with bsz := BszRegs.reset }
     s.fs.state = .accumulating ∧ s.hdr.valid = true ∧ s.hdr.frameValid = true ∧ s.bsz.valid = false ∧ Running s) ∧
    (let s := { closed .ac3 [] 9 Cfg.ref with bsz := BszRegs.reset }
     s.fs.state ≠ .accumulating ∧ s.bsz.valid = false ∧ Running s) ∧
    ref.sc.locked = false ∧
    ((1 : Word32).toNat % 2 = 1 ∨ ref.strm.esLen.toNat < (1 : Word32).toNat) ∧
    ((2 : Word32).toNat % 2 = 1 ∨ ref.strm.esLen.toNat < (2 : Word32).toNat) ∧
    ref.strm.pcmLen.toNat < (1 : Word32).toNat := by decide +kernel

theorem witness_CsrRdReturnsTheRegister :
    Reg.cfgAlt.number = (0 : Word32).toNat ∧ Reg.stLastpd.number = (0x7B : Word32).toNat := by decide

theorem witness_UnknownRegisterNumbers :
    (∀ r : Reg, r.number ≠ (0x7C : Word32).toNat) ∧ (∀ r : Reg, r.number ≠ (0x03 : Word32).toNat) ∧ Running ref ∧
    latched.faultFlag = true :=
  ⟨fun r => by cases r <;> decide, fun r => by cases r <;> decide, by decide, by decide⟩

/-- Each value at the end of its range, in a stream of eight bytes and a carrier of one word. -/
theorem witness_CsrWrStoresTheValue :
    let s := (ref.loadEs eac).loadPcm [0]
    Running s ∧ ((16 : Word32) = 16 ∨ (16 : Word32) = 24 ∨ (16 : Word32) = 32) ∧
    ((32 : Word32) = 16 ∨ (32 : Word32) = 24 ∨ (32 : Word32) = 32) ∧
    ((8 : Word32).toNat % 2 = 0 ∧ (8 : Word32).toNat ≤ s.strm.esLen.toNat) ∧
    (1 : Word32).toNat ≤ s.strm.pcmLen.toNat := by decide +kernel

theorem witness_CsrWrRejectsTheValue :
    Running ref ∧ Reg.status.number = (8 : Word32).toNat ∧
    (8 : Word32).toNat ∉ [0x00, 0x01, 0x02, 0x10, 0x12, 0x52] ∧ Reg.stLastpd.number = (0x7B : Word32).toNat ∧
    (0x7B : Word32).toNat ∉ [0x00, 0x01, 0x02, 0x10, 0x12, 0x52] ∧
    (20 : Word32) ≠ 16 ∧ (20 : Word32) ≠ 24 ∧ (20 : Word32) ≠ 32 := by decide

theorem witness_BuInitLoadsTheFrame :
    Running ref ∧ ref.debuf.wf ∧ (24 : Word32).toNat = DataMode.m24.bits ∧ (4096 : Word32).toNat ≤ ref.cfg.debufCap ∧
    (0 : Word32).toNat ≤ ref.cfg.debufCap := by decide

/-- A field that ends on the last bit, and one that ends a bit behind it. -/
theorem witness_BuUnpackReadsTheFields :
    let s := unpacking [0xABCD0000, 0x12340000] .m16 0 0
    let t := unpacking [0xABCD0000, 0x12340000] .m16 0 1
    let P (u : State) := u.bu.wp.toNat * DataMode.m16.bits + u.bu.bp.toNat
    Running s ∧ s.buout.wf ∧ s.bu.depth = some .m16 ∧ 1 ≤ (32 : Word32).toNat ∧ (32 : Word32).toNat ≤ 32 ∧
    (1 : Word32).toNat ≤ s.cfg.buoutCap ∧ s.bu.len.toNat ≤ s.cfg.debufCap ∧
    P s + (1 : Word32).toNat * (32 : Word32).toNat ≤ s.bu.len.toNat * DataMode.m16.bits ∧
    Running t ∧ t.bu.depth = some .m16 ∧ t.bu.len.toNat ≤ t.cfg.debufCap ∧
    t.bu.len.toNat * DataMode.m16.bits < P t + (1 : Word32).toNat * (32 : Word32).toNat := by decide

/-- The words up to the end of the buffer, and one word more. -/
theorem witness_BuUnkeyXorsTheKey :
    let s := unpacking [0x11111100, 0x222222AB, 0x33333300] .m24 0 1
    Running s ∧ s.debuf.wf ∧ s.bu.depth = some .m24 ∧ s.bu.bp.toNat < DataMode.m24.bits ∧
    s.bu.len.toNat ≤ s.cfg.debufCap ∧
    (if s.bu.bp.toNat = 0 then s.bu.wp.toNat else s.bu.wp.toNat + 1) + (2 : Word32).toNat ≤ s.bu.len.toNat ∧
    s.bu.len.toNat < (if s.bu.bp.toNat = 0 then s.bu.wp.toNat else s.bu.wp.toNat + 1) + (3 : Word32).toNat := by
  decide +kernel

theorem witness_UnkeyTwiceRestores :
    let s := unpacking [0x11111100, 0x222222AB, 0x33333300] .m24 1 0
    ∃ t, s.debuf.wf ∧ Running s ∧ exec (.buUnkey 0xFFFFFF 2) s = .next t ∧ Running t :=
  ⟨_, by decide +kernel, by decide, rfl, by decide +kernel⟩

/-- D-4, and the shortest frame there is: six words of 24 bits. -/
theorem witness_DeParseReadsAnUnkeyedHeader :
    let s := ref.loadDeframe frameD4
    (Running s ∧ s.debuf.wf ∧ (16 : Word32).toNat = DataMode.m16.bits ∧ (7 : Word32).toNat ≤ s.cfg.debufCap ∧
      (s.deframe.read 4).toNat / 2 ^ 16 % 2 = 0 ∧ 5 * 16 + 24 ≤ (7 : Word32).toNat * 16) ∧
    Running ref ∧ ref.debuf.wf ∧ (24 : Word32).toNat = DataMode.m24.bits ∧ (6 : Word32).toNat ≤ ref.cfg.debufCap ∧
    (ref.deframe.read 4).toNat / 2 ^ 8 % 2 = 0 ∧ 5 * 24 + 24 ≤ (6 : Word32).toNat * 24 := by decide +kernel

/-- D-1, whose second unkey pass ends with the frame. -/
theorem witness_DeParseReadsAKeyedHeader :
    let s := ref.loadDeframe frameD1
    let word (i : Nat) : Nat := (s.deframe.read i).toNat / 2 ^ 16
    let seg := (word 6 ^^^ word 5) / 2 ^ 2 % 2 ^ 10
    Running s ∧ s.debuf.wf ∧ (16 : Word32).toNat = DataMode.m16.bits ∧ (9 : Word32).toNat ≤ s.cfg.debufCap ∧
    word 4 % 2 = 1 ∧ 7 + seg = (9 : Word32).toNat ∧ 6 * 16 + 24 ≤ (9 : Word32).toNat * 16 := by decide +kernel

/-- Lengths at which each clause's step fails: 0, 3, 4, 5, 6 and 7 words. -/
theorem witness_DeParseOfAShortFrame :
    let s := ref.loadDeframe frameD1
    let u := ref.loadDeframe [0, 0, 0, 0, 0x078F0000, 0xFFFF0000, 0xFFFF0000]
    let v := ref.loadDeframe [0, 0, 0, 0, 0x00001000, 0xFFFFF000, 0xFFFFF000]
    let word (t : State) (n i : Nat) : Nat := (t.deframe.read i).toNat / 2 ^ (32 - n)
    let seg (t : State) (n : Nat) : Nat := (word t n 6 ^^^ word t n 5) / 2 ^ (n - 14) % 2 ^ 10
    Running s ∧ s.debuf.wf ∧ (16 : Word32).toNat = DataMode.m16.bits ∧ (20 : Word32).toNat = DataMode.m20.bits ∧
    (8 : Word32).toNat ≤ s.cfg.debufCap ∧ Running u ∧ u.debuf.wf ∧ Running v ∧ v.debuf.wf ∧ Running ref ∧ ref.debuf.wf ∧
    (0 : Word32).toNat < 4 ∧ (3 : Word32).toNat < 4 ∧ (4 : Word32).toNat = 4 ∧ (5 : Word32).toNat = 5 ∧
    (word ref 16 4 % 2 = 0 ∧ (6 : Word32).toNat = 6) ∧ (word ref 20 4 % 2 = 0 ∧ (6 : Word32).toNat = 6) ∧
    (word s 16 4 % 2 = 1 ∧ (6 : Word32).toNat = 6) ∧
    (word s 16 4 % 2 = 1 ∧ 7 ≤ (7 : Word32).toNat ∧ (8 : Word32).toNat < 7 + seg s 16) ∧
    (word u 16 4 % 2 = 1 ∧ (7 : Word32).toNat = 7 ∧ seg u 16 = 0) ∧
    (word v 20 4 % 2 = 1 ∧ (7 : Word32).toNat = 7 ∧ seg v 20 = 0) := by decide +kernel

theorem witness_DeParseTwiceAgrees :
    let s := ref.loadDeframe frameD1
    ∃ t, s.debuf.wf ∧ Running s ∧ exec (.deParse 9 16) s = .next t ∧ Running t :=
  ⟨_, by decide +kernel, by decide, rfl, by decide +kernel⟩

/-- The two ends of each range of bsid and of each code. -/
theorem witness_HeaderFieldsDecode :
    let c := Cfg.ref
    let width (r : BitRange) : Nat := r.hi - r.lo + 1
    let field (f : FieldPos) (h : List Word16) : Nat :=
      f.ranges.foldl (fun v r => v * 2 ^ width r + (h.getD r.word 0).toNat / 2 ^ r.lo % 2 ^ width r) 0
    let b := field c.layout.bsid
    let f := field c.layout.fscod
    let k := field c.layout.frmsizecod
    b [0, 0, 0x0048] = 9 ∧ b [0, 0, 0x0050] = 10 ∧ 16 < b [0, 0, 0x0088] ∧
    (b [0, 0, 0xC040] = 8 ∧ c.nFscod ≤ f [0, 0, 0xC040]) ∧
    (b [0, 0, 0x2640] ≤ 8 ∧ f [0, 0, 0x2640] < c.nFscod ∧ k [0, 0, 0x2640] = c.nFrmsizecod) ∧
    (b [0, 0, 0xA540] ≤ 8 ∧ f [0, 0, 0xA540] < c.nFscod ∧ k [0, 0, 0xA540] < c.nFrmsizecod ∧
      tableEntry c.ac3FrameWords (f [0, 0, 0xA540]) (k [0, 0, 0xA540]) = some 1920) ∧
    11 ≤ b [0, 3, 0x1458] ∧ b [0, 3, 0x1458] ≤ 16 ∧ 11 ≤ b [0, 2, 0x1480] ∧ b [0, 2, 0x1480] ≤ 16 := by decide +kernel

theorem witness_HeaderOperationsReportEof : Running ref ∧ ref.strm.esPos = ref.strm.esLen := by decide

/-- The hypotheses of HdrParseConsumesATimeslice on a stream. -/
abbrev timesliceAt (s : State) (lead trail rev : Bool) (q e : Nat) (stop : StopCode) : Prop :=
  s.cfg.wellFormed = true ∧ s.frame.wf ∧ Running s ∧ (lead = true → TimecodeAt s s.strm.esPos.toNat) ∧
  q = s.strm.esPos.toNat + (if lead then 2 * s.cfg.tcRecordWords else 0) ∧ AudioAt s q rev ∧
  HeaderAt s q rev = .ok (eacHeader rev) ∧
  (trail = true → lead = false ∧ q + 8 + 2 ≤ s.strm.esLen.toNat ∧ TimecodeAt s (q + 8)) ∧
  e = q + 8 + (if trail then 2 * s.cfg.tcRecordWords else 0) ∧ e ≤ s.strm.esLen.toNat ∧
  ((e = s.strm.esLen.toNat ∧ stop = .eos) ∨ (e + 2 ≤ s.strm.esLen.toNat ∧ stop = .newslice ∧
    ((∃ r, AudioAt s e r) ∨ ((lead || trail) = true ∧ TimecodeAt s e))))

/-- The rows `F $`, `T F T`, `F T F` and `F F` of R158. -/
theorem witness_HdrParseConsumesATimeslice :
    timesliceAt (ref.loadEs eac) false false false 0 8 .eos ∧
    timesliceAt (ref.loadEs (tc ++ eacRev ++ tc)) true false true 16 24 .newslice ∧
    timesliceAt (ref.loadEs (eac ++ tc ++ [0x77, 0x0B])) false true false 0 24 .newslice ∧
    timesliceAt (ref.loadEs (eac ++ eac)) false false false 0 8 .newslice := by
  refine ⟨?_, ?_, ?_, ?_⟩ <;> refine ⟨by decide +kernel, by decide +kernel, by decide +kernel, ?_⟩ <;> decide +kernel

theorem witness_TimecodeOnlyTimeslice :
    let s := ref.loadEs tc
    let t := ref.loadEs (tc ++ tc)
    s.cfg.wellFormed = true ∧ Running s ∧ TimecodeAt s s.strm.esPos.toNat ∧
    s.strm.esPos.toNat + 2 * s.cfg.tcRecordWords = s.strm.esLen.toNat ∧
    Running t ∧ TimecodeAt t t.strm.esPos.toNat ∧ 16 + 2 ≤ t.strm.esLen.toNat ∧ TimecodeAt t 16 := by decide +kernel

/-- A header that ends with the stream, behind a timecode record. -/
theorem witness_HdrPeekStopsAfterTheHeader :
    let s := ref.loadEs (tc ++ eacRev)
    s.cfg.wellFormed = true ∧ Running s ∧ TimecodeAt s s.strm.esPos.toNat ∧ AudioAt s 16 true ∧
    HeaderAt s 16 true = .ok (eacHeader true) ∧ 16 + 8 ≤ s.strm.esLen.toNat := by decide +kernel

/-- A stream of `bytes` under REF in which a call has come to offset `p`. -/
abbrev reached (bytes : List Byte) (i : Instr) (tcSeen frSeen : Bool) (p : Nat) : Prop :=
  (ref.loadEs bytes).cfg.wellFormed = true ∧ Running (ref.loadEs bytes) ∧ Reaches (ref.loadEs bytes) i tcSeen frSeen p

/-- The first record of a call. -/
theorem reached_start (bytes : List Byte) (i : Instr) : reached bytes i false false 0 :=
  ⟨show Cfg.ref.wellFormed = true by decide +kernel, show ref.faultFlag = false by decide, .start⟩

/-- Behind a timecode record. -/
theorem reached_timecode {bytes : List Byte} {i : Instr} {frSeen : Bool} {p : Nat} (h : reached bytes i false frSeen p)
    (ht : TimecodeAt (ref.loadEs bytes) p) (hl : p + 16 ≤ (ref.loadEs bytes).strm.esLen.toNat) :
    reached bytes i true frSeen (p + 16) := ⟨h.1, h.2.1, .timecode h.2.2 ht hl⟩

/-- Behind a frame like `eac`. -/
theorem reached_frame {bytes : List Byte} {tcSeen rev : Bool} {p : Nat} (h : reached bytes .hdrParse tcSeen false p)
    (ha : AudioAt (ref.loadEs bytes) p rev) (hd : HeaderAt (ref.loadEs bytes) p rev = .ok (eacHeader rev))
    (hl : p + 8 ≤ (ref.loadEs bytes).strm.esLen.toNat) : reached bytes .hdrParse tcSeen true (p + 8) :=
  ⟨h.1, h.2.1, .frame rfl h.2.2 ha hd hl⟩

/-- `X`, `T X` and `F T X`. -/
theorem witness_MissingSyncRaises :
    let x : List Byte := [0x12, 0x34]
    (reached x .hdrPeek false false 0 ∧ 0 + 2 ≤ (ref.loadEs x).strm.esLen.toNat ∧ NoSyncAt (ref.loadEs x) 0) ∧
    (reached (tc ++ x) .hdrPeek true false 16 ∧ 16 + 2 ≤ (ref.loadEs (tc ++ x)).strm.esLen.toNat ∧
      NoSyncAt (ref.loadEs (tc ++ x)) 16) ∧
    (reached (eac ++ tc ++ x) .hdrParse true true 24 ∧ 24 + 2 ≤ (ref.loadEs (eac ++ tc ++ x)).strm.esLen.toNat ∧
      NoSyncAt (ref.loadEs (eac ++ tc ++ x)) 24) := by
  refine ⟨⟨reached_start _ _, ?_⟩, ⟨reached_timecode (reached_start _ _) ?_ ?_, ?_⟩,
    reached_timecode (p := 8) (reached_frame (rev := false) (reached_start _ _) ?_ ?_ ?_) ?_ ?_, ?_⟩ <;> decide +kernel

/-- One byte (vector H25 has it behind a frame), and a record, a header and a frame that miss their last byte, first in the
call and behind another record. -/
theorem witness_ShortReadsRaise :
    let cut : List Byte := [0x0B, 0x77, 0x00, 0x04, 0x14, 0x80, 0x00, 0x00, 0x00]
    let len (bytes : List Byte) : Nat := (ref.loadEs bytes).strm.esLen.toNat
    (reached [0x0B] .hdrPeek false false 0 ∧ 0 + 1 = len [0x0B]) ∧
    (reached (eac ++ [0x0B]) .hdrParse false true 8 ∧ 8 + 1 = len (eac ++ [0x0B])) ∧
    (reached (eac ++ tc.take 15) .hdrParse false true 8 ∧ 8 + 2 ≤ len (eac ++ tc.take 15) ∧
      TimecodeAt (ref.loadEs (eac ++ tc.take 15)) 8 ∧ len (eac ++ tc.take 15) < 8 + 2 * Cfg.ref.tcRecordWords) ∧
    (reached (tc ++ eacRev.take 7) .hdrPeek true false 16 ∧ 16 + 2 ≤ len (tc ++ eacRev.take 7) ∧
      AudioAt (ref.loadEs (tc ++ eacRev.take 7)) 16 true ∧ len (tc ++ eacRev.take 7) < 16 + 8) ∧
    (reached (tc ++ cut) .hdrParse true false 16 ∧ 16 + 8 ≤ len (tc ++ cut) ∧ AudioAt (ref.loadEs (tc ++ cut)) 16 false ∧
      HeaderAt (ref.loadEs (tc ++ cut)) 16 false = .ok { eacHeader false with frameWords := 5 } ∧
      len (tc ++ cut) < 16 + 2 * 5) := by
  refine ⟨⟨reached_start _ _, ?_⟩, ⟨reached_frame (p := 0) (rev := false) (reached_start _ _) ?_ ?_ ?_, ?_⟩,
    ⟨reached_frame (p := 0) (rev := false) (reached_start _ _) ?_ ?_ ?_, ?_⟩,
    ⟨reached_timecode (p := 0) (reached_start _ _) ?_ ?_, ?_⟩, ⟨reached_timecode (p := 0) (reached_start _ _) ?_ ?_, ?_⟩⟩ <;>
    decide +kernel

/-- H18, H19 and H11 behind a timecode record, and H23: a bad header of each kind. -/
theorem witness_BadHeadersRaise :
    let bad (hi lo : Byte) : List Byte := tc ++ [0x0B, 0x77, 0x00, 0x00, hi, lo, 0x00, 0x00]
    let at16 (hi lo : Byte) (kind : ErrKind) (info : Nat) : Prop :=
      reached (bad hi lo) .hdrPeek true false 16 ∧ 16 + 8 ≤ (ref.loadEs (bad hi lo)).strm.esLen.toNat ∧
      AudioAt (ref.loadEs (bad hi lo)) 16 false ∧
      HeaderAt (ref.loadEs (bad hi lo)) 16 false = .error (.raised kind info)
    at16 0xC0 0x40 .invalidSampleRate 3 ∧ at16 0x26 0x40 .invalidDataRate 38 ∧ at16 0x00 0x48 .invalidBsid 9 ∧
    (let s := { ref.loadEs eac with conf := { ConfRegs.reset with alt := true } }
     Reaches s .hdrParse false false 0 ∧ 0 + 8 ≤ s.strm.esLen.toNat ∧ AudioAt s 0 false ∧
     HeaderAt s 0 false = .error (.raised .configError 1)) := by
  refine ⟨⟨reached_timecode (p := 0) (reached_start _ _) ?_ ?_, ?_⟩,
    ⟨reached_timecode (p := 0) (reached_start _ _) ?_ ?_, ?_⟩, ⟨reached_timecode (p := 0) (reached_start _ _) ?_ ?_, ?_⟩,
    .start, ?_⟩ <;> decide +kernel

/-- A stream of one frame, and the stream with the bytes of each word exchanged. -/
theorem witness_ByteReversedStreamsAreNormalised :
    let s := ref.loadEs eac
    let es := Memory.ofList eacRev
    ∃ t, s.cfg.wellFormed = true ∧ s.strm.esPos.toNat % 2 = 0 ∧
      (∀ j, es.read (2 * j) = s.es.read (2 * j + 1) ∧ es.read (2 * j + 1) = s.es.read (2 * j)) ∧
      Running s ∧ exec .hdrParse s = .next t ∧ t.result = 1 := by
  refine ⟨_, by decide +kernel, by decide +kernel, ?_, by decide, rfl, by decide +kernel⟩
  intro j
  show (Memory.ofList eacRev).read (2 * j) = (Memory.ofList eac).read (2 * j + 1) ∧
    (Memory.ofList eacRev).read (2 * j + 1) = (Memory.ofList eac).read (2 * j)
  simp only [Memory.read_ofList]
  by_cases hj : j < 4
  · interval_cases j <;> decide
  · have hr : ∀ a, 8 ≤ a → eacRev.getD a (Memory.unlisted 8) = Memory.unlisted 8 := fun a ha =>
      List.getD_eq_default _ _ ha
    have he : ∀ a, 8 ≤ a → eac.getD a (Memory.unlisted 8) = Memory.unlisted 8 := fun a ha => List.getD_eq_default _ _ ha
    rw [hr _ (by omega), hr _ (by omega), he _ (by omega), he _ (by omega)]
    exact ⟨rfl, rfl⟩

/-- The invariants of a machine right after reset, used by the witnesses below. -/
theorem cursorsOk_ref : CursorsOk ref := by constructor <;> decide
theorem headerOk_ref : HeaderOk ref := by constructor <;> decide
theorem burstSizeOk_ref : BurstSizeOk ref := by constructor <;> decide
theorem unpackerOk_ref : UnpackerOk ref := by
  constructor
  · intro m h; cases h
  · intro m h; cases h
  · intro h; exact absurd rfl h
theorem scannerOk_ref : ScannerOk ref := by
  constructor
  · intro h; cases h
  · intro m h; cases h
  · intro h; cases h
theorem latchOk_ref : LatchOk ref := by
  constructor
  · decide
  · intro h; cases (show ref.faultFlag = false by decide).symm.trans h
  · decide

/-- A scan that moves the cursor, and the rewind of FS.OFFER. -/
theorem witness_CursorsMoveForward :
    (∃ t, CursorsOk ref ∧ exec .scanFind ref = .next t ∧ Instr.scanFind ≠ .sysReset ∧
      (∀ a b, Instr.scanFind ≠ .csrWr a b) ∧ Instr.scanFind ≠ .fsOffer) ∧
    let s := { offering 384 6 3072 (setOf 1 768 2) with strm := { StreamRegs.reset with esPos := 2304, esLen := 2304 } }
    ∃ t, CursorsOk s ∧ exec .fsOffer s = .next t ∧ Instr.fsOffer ≠ .sysReset ∧ (∀ a b, Instr.fsOffer ≠ .csrWr a b) ∧
      t.strm.esPos = s.hdr.start ∧ t.strm.esPos.toNat < s.strm.esPos.toNat :=
  ⟨⟨_, cursorsOk_ref, rfl, by decide, by simp, by decide⟩,
    _, by constructor <;> decide, rfl, by decide, by simp, by decide +kernel, by decide +kernel⟩

theorem witness_BszSizeReturnsTheConstants :
    Running ref ∧ (5 : Word32).toNat ∈ ref.cfg.deFrcodes ∧ (5 : Word32).toNat ≠ ref.cfg.frc2997 ∧
    ref.cfg.bsDe.lookup (5 : Word32).toNat = some 3200 := by decide

theorem witness_SizesAt2997FollowTheSequence : Running ref ∧ (4 : Word32).toNat = ref.cfg.frc2997 := by decide

theorem witness_UnknownBurstSizeRaises :
    Running ref ∧ (6 : Word32).toNat ∉ ref.cfg.deFrcodes ∧ (6 : Word32).toNat ≠ ref.cfg.frc2997 ∧
    2 < (3 : Word32).toNat := by decide

/-- A frame that meets the capacity exactly, as the second of its set and as the first. -/
theorem witness_FsOfferAppendsTheFrame :
    (let s := offering 4 2 3072 (setOf 1 3060 2)
     Running s ∧ s.fsbuf.wf ∧ s.fs.state = .accumulating ∧ s.hdr.valid = true ∧ s.hdr.frameValid = true ∧
     s.bsz.valid = true ∧ (s.fs.nframes = 0 ∨ s.hdr.blocks = s.fs.bpf) ∧ s.fs.blocks.toNat < 6 ∧
     4 + s.fs.words + s.hdr.frameWords.toNat + 4 = s.bsz.size.toNat ∧ s.hdr.frameWords.toNat ≤ s.cfg.frameCap ∧
     s.fs.words + s.hdr.frameWords.toNat ≤ s.cfg.fsbufCap ∧
     ((s.hdr.strmtyp = .indep ∨ s.hdr.strmtyp = .trans) ∧ s.hdr.substreamid = 0) ∧ s.fs.nframes ≠ 0) ∧
    (let s := offering 2048 6 2056 FsRegs.reset
     Running s ∧ s.fsbuf.wf ∧ s.fs.nframes = 0 ∧ s.fs.blocks.toNat < 6 ∧
     4 + s.fs.words + s.hdr.frameWords.toNat + 4 = s.bsz.size.toNat ∧ s.hdr.frameWords.toNat ≤ s.cfg.frameCap ∧
     s.fs.words + s.hdr.frameWords.toNat ≤ s.cfg.fsbufCap) := by decide +kernel

theorem witness_FsOfferFlushesShort :
    let s := offering 384 6 3072 (setOf 1 768 2)
    Running s ∧ s.fs.state = .accumulating ∧ s.hdr.valid = true ∧ s.hdr.frameValid = true ∧ s.bsz.valid = true ∧
    0 < s.fs.nframes ∧ s.hdr.blocks ≠ s.fs.bpf := by decide

/-- A8, one word too many; and A7, which is accepted. -/
theorem witness_FsOfferKeepsTheCapacity :
    (let s := offering 4 2 3072 (setOf 1 3061 2)
     Running s ∧ s.fs.state = .accumulating ∧ s.hdr.valid = true ∧ s.hdr.frameValid = true ∧ s.bsz.valid = true ∧
     (s.fs.nframes = 0 ∨ s.hdr.blocks = s.fs.bpf) ∧
     s.bsz.size.toNat + 1 = 4 + s.fs.words + s.hdr.frameWords.toNat + 4) ∧
    ∃ t, exec .fsOffer (offering 4 2 3072 (setOf 1 3060 2)) = .next t ∧
      t.fs.nframes = (offering 4 2 3072 (setOf 1 3060 2)).fs.nframes + 1 :=
  ⟨by decide +kernel, _, rfl, by decide +kernel⟩

theorem witness_FsFlushClosesThePendingSet :
    let s := offering 4 2 3072 (setOf 1 4 2)
    let t := closed .ac3 [] 9 Cfg.ref
    (Running s ∧ s.fs.state = .accumulating ∧ s.fs.nframes = 1) ∧
    (Running ref ∧ ref.fs.state = .accumulating ∧ ref.fs.nframes = 0) ∧ Running t ∧ t.fs.state ≠ .accumulating := by
  decide

theorem witness_FsClearEmptiesTheSet : Running latched.enterReset ∧ Running ref := by decide

theorem witness_FramesetInvariantIsKept :
    ∃ t, HeaderOk ref ∧ BurstSizeOk ref ∧ FramesetOk ref ∧ step ref = .next t := by
  refine ⟨_, headerOk_ref, burstSizeOk_ref, ?_, rfl⟩
  constructor <;> decide

/-- A burst with no padding, and a set of no words. -/
theorem witness_BurstEncAppendsTheBurst :
    let s := closed .ac3 [1, 2, 3, 4, 5] 9 Cfg.ref
    let t := closed .eac3 [] 9 Cfg.ref
    Running s ∧ s.fs.state ≠ .accumulating ∧ s.bsz.valid = true ∧ 4 + s.fs.words = s.bsz.size.toNat ∧
    16 * s.fs.words < 2 ^ 16 ∧ s.fs.words ≤ s.cfg.fsbufCap ∧ Running t ∧ t.fs.state ≠ .accumulating ∧
    t.bsz.valid = true ∧ 4 + t.fs.words ≤ t.bsz.size.toNat ∧ t.fs.words ≤ t.cfg.fsbufCap := by decide +kernel

/-- The two ends of the range of T (R250). -/
theorem witness_BurstEncaltAppendsTheBurst :
    (let s := closed .ac3 [1, 2] 9 (withAltPoint 9)
     Running s ∧ s.fs.state ≠ .accumulating ∧ s.bsz.valid = true ∧ s.fs.format = .ac3 ∧
     tableEntry s.cfg.altPoint s.fs.fscod s.fs.frmsizecod = some 9 ∧ 9 = s.bsz.size.toNat ∧
     4 + s.fs.words ≤ 9 ∧ 16 * s.fs.words < 2 ^ 16 ∧ s.fs.words ≤ s.cfg.fsbufCap) ∧
    (let s := closed .ac3 [1, 2] 9 (withAltPoint 6)
     Running s ∧ tableEntry s.cfg.altPoint s.fs.fscod s.fs.frmsizecod = some 6 ∧
     4 + s.fs.words = 6) := by decide +kernel

/-- A frame of its preamble only, and one that fills the burst. -/
theorem witness_BurstEncdeAppendsTheBurst :
    let s := dolbyE (List.replicate 9 1) 9
    Running s ∧ (24 : Word32).toNat = DataMode.m24.bits ∧ (9 : Word32).toNat ≤ s.cfg.debufCap ∧ s.bsz.valid = true ∧
    s.conf.alt = false ∧ 4 ≤ (4 : Word32).toNat ∧ (9 : Word32).toNat = s.bsz.size.toNat ∧
    24 * ((9 : Word32).toNat - 4) < 2 ^ 24 := by decide +kernel

/-- E6, E7, E14, E11, E12, E18, E19 and E20, at the ends of the ranges. -/
theorem witness_EncodersRaise :
    (let s := closed .ac3 [1, 2, 3, 4, 5, 6] 9 (withAltPoint 10)
     Running s ∧ s.bsz.valid = true ∧ s.fs.state ≠ .accumulating ∧ s.bsz.size.toNat + 1 = 4 + s.fs.words ∧
     s.fs.format = .ac3 ∧ tableEntry s.cfg.altPoint s.fs.fscod s.fs.frmsizecod = some 10 ∧
     s.bsz.size.toNat < 10) ∧
    (let s := { closed .eac3 [] 8192 Cfg.ref with
                  fs := { FsRegs.reset with state := .flushedShort, words := 4096, nframes := 1, format := .eac3 } }
     Running s ∧ s.bsz.valid = true ∧ s.fs.state ≠ .accumulating ∧ 4096 ≤ s.fs.words ∧ s.fs.format ≠ .ac3) ∧
    (let s := closed .ac3 [1, 2] 9 (withAltPoint 5)
     Running s ∧ tableEntry s.cfg.altPoint s.fs.fscod s.fs.frmsizecod = some 5 ∧ 5 < 4 + s.fs.words) ∧
    (let s := dolbyE [] 3202
     let u := { s with conf := { s.conf with alt := true } }
     Running s ∧ s.bsz.valid = true ∧ (16 : Word32).toNat = DataMode.m16.bits ∧
     (3203 : Word32).toNat ≤ s.cfg.debufCap ∧ s.conf.alt = false ∧ (3 : Word32).toNat < 4 ∧
     s.bsz.size.toNat < (3203 : Word32).toNat ∧ Running u ∧ u.bsz.valid = true ∧ u.conf.alt = true) := by
  decide +kernel

theorem witness_OutputsAreAppendOnly :
    let s := closed .ac3 [1, 2] 9 Cfg.ref
    ∃ t, exec .burstEnc s = .next t ∧ Instr.burstEnc ≠ .sysReset ∧ Running s ∧ Running t :=
  ⟨_, rfl, by decide, by decide, by decide +kernel⟩

/-- A container is no Pa under REF. -/
theorem not_preambleAt {s : State} {p : Nat} (h : hyp s.cfg (s.pcm.read p) = none) (m : DataMode) :
    ¬ PreambleAt s p m := by
  unfold hyp at h
  intro hm
  have := hm.1
  split at h
  · cases h
  · split at h
    · cases h
    · split at h
      · cases h
      · rename_i h1 h2 h3
        cases m
        · exact h1 this
        · exact h2 this.2
        · exact h3 this.2.2

/-- R279 from word 1 on: a lock in mode 20 at word 3, the last place where Pc and Pd still stand in a carrier of seven
words. -/
theorem witness_ScanFindsTheFirstPreamble :
    let s := (ref.loadPcm (carrier.take 7))
    let t := { s with strm := { s.strm with pcmPos := 1 } }
    Running t ∧ t.strm.pcmPos.toNat ≤ 3 ∧ 3 + 3 < t.strm.pcmLen.toNat ∧ PreambleAt t 3 .m20 ∧
    ∀ j m', t.strm.pcmPos.toNat ≤ j → j < 3 → ¬ PreambleAt t j m' := by
  refine ⟨by decide, by decide, by decide, ⟨⟨by decide +kernel, by decide +kernel⟩, by decide +kernel⟩, ?_⟩
  intro j m' h1 h2
  have h1 : 1 ≤ j := h1
  refine not_preambleAt ?_ m'
  interval_cases j <;> decide +kernel

/-- X3: a Pa in the last word. -/
theorem witness_ScanReportsEof :
    let s := ref.loadPcm [0xF8720000]
    Running s ∧ ∀ j m, s.strm.pcmPos.toNat ≤ j → j + 1 < s.strm.pcmLen.toNat → ¬ PreambleAt s j m := by
  refine ⟨by decide, ?_⟩
  intro j m h1 h2
  have h2 : j + 1 < 1 := h2
  omega

/-- X5: Pd is missing; and X4: Pc too. -/
theorem witness_ScanOfATruncatedPreamble :
    let s := ref.loadPcm [0xF8720000, 0x4E1F0000, 0x00010000]
    let t := ref.loadPcm [0xF8720000, 0x4E1F0000]
    Running s ∧ s.strm.pcmPos.toNat ≤ 0 ∧ 0 + 1 < s.strm.pcmLen.toNat ∧ s.strm.pcmLen.toNat = 0 + 3 ∧
    PreambleAt s 0 .m16 ∧ (∀ j m', s.strm.pcmPos.toNat ≤ j → j < 0 → ¬ PreambleAt s j m') ∧
    Running t ∧ 0 + 1 < t.strm.pcmLen.toNat ∧ t.strm.pcmLen.toNat ≤ 0 + 3 ∧ PreambleAt t 0 .m16 := by
  refine ⟨by decide, by decide, by decide, by decide, ⟨?_, by decide +kernel⟩, ?_, by decide, by decide, by decide, ?_,
    by decide +kernel⟩
  · show rj _ 16 = _; decide +kernel
  · intro j m' _ h; omega
  · show rj _ 16 = _; decide +kernel

/-- The payload ends with the carrier; and it is one container too long (X6). -/
theorem witness_BurstDecExtractsThePayload :
    (let s := lockedOn carrier .m20 41 7
     Running s ∧ s.sc.locked = true ∧ s.sc.mode = some .m20 ∧
     s.strm.pcmPos.toNat + (s.sc.pd.toNat + 20 - 1) / 20 = s.strm.pcmLen.toNat) ∧
    (let s := lockedOn carrier .m20 61 7
     Running s ∧ s.sc.locked = true ∧ s.sc.mode = some .m20 ∧
     s.strm.pcmLen.toNat + 1 = s.strm.pcmPos.toNat + (s.sc.pd.toNat + 20 - 1) / 20) := by decide +kernel

theorem witness_StatisticsNeverAffectAnOperation : ∀ a, Instr.scanFind ≠ .csrRd a := by simp

/-- A burst of a set of two words, and a decoder whose carrier is that burst behind two zeros. -/
theorem witness_EncodedSetsAreDecoded :
    let s := closed .ac3 [0x0B77, 0xFFFF] 9 Cfg.ref
    let u := ref.loadPcm [0, 0, 0xF8720000, 0x4E1F0000, 0x00010000, 0x00200000, 0x0B770000, 0xFFFF0000, 0, 0, 0]
    ∃ t, s.cfg.wellFormed = true ∧ Running s ∧ exec .burstEnc s = .next t ∧ Running t ∧ Running u ∧ u.cfg = s.cfg ∧
      u.strm.pcmPos.toNat ≤ 2 ∧ (∀ j, u.strm.pcmPos.toNat ≤ j → j < 2 → u.pcm.read j = 0) ∧
      2 + s.bsz.size.toNat ≤ u.strm.pcmLen.toNat ∧
      ∀ j, j < s.bsz.size.toNat → t.burstout[s.burstout.length + j]? = some (u.pcm.read (2 + j)) := by
  refine ⟨_, by decide +kernel, by decide, rfl, by decide +kernel, by decide, rfl, by decide, ?_, by decide +kernel, ?_⟩
  · intro j _ h; interval_cases j <;> decide +kernel
  · intro j h
    have h : j < 9 := h
    interval_cases j <;> decide +kernel

/-- The same with the frame of E16. -/
theorem witness_EncodedDolbyEIsDecoded :
    let s := dolbyE [9, 9, 9, 9, 0x111111FF, 0x22222200] 9
    let u := ref.loadPcm [0, 0x96F87200, 0xA54E1F00, 0x005C0000, 0x00003000, 0x111111FF, 0x22222200, 0, 0, 0]
    ∃ t, s.cfg.wellFormed = true ∧ (24 : Word32).toNat = DataMode.m24.bits ∧ Running s ∧
      exec (.burstEncde 6 24) s = .next t ∧ Running t ∧ Running u ∧ u.cfg = s.cfg ∧
      u.strm.pcmPos.toNat ≤ 1 ∧ (∀ j, u.strm.pcmPos.toNat ≤ j → j < 1 → u.pcm.read j = 0) ∧
      1 + s.bsz.size.toNat ≤ u.strm.pcmLen.toNat ∧
      ∀ j, j < s.bsz.size.toNat → t.burstout[s.burstout.length + j]? = some (u.pcm.read (1 + j)) := by
  refine ⟨_, by decide +kernel, by decide, by decide, rfl, by decide +kernel, by decide, rfl, by decide, ?_,
    by decide +kernel, ?_⟩
  · intro j _ h; interval_cases j; decide +kernel
  · intro j h
    have h : j < 9 := h
    interval_cases j <;> decide +kernel

/-- The machine with HDR.PARSE on its port is consistent, and steps. -/
theorem machineOk_ref : MachineOk (issuing (cmdWord 0x20 0 0 0) ref) where
  cfg := by decide +kernel
  memories := by constructor <;> decide
  cursors := ⟨cursorsOk_ref.1, cursorsOk_ref.2, cursorsOk_ref.3, cursorsOk_ref.4, cursorsOk_ref.5⟩
  unpacker := ⟨unpackerOk_ref.1, unpackerOk_ref.2, unpackerOk_ref.3⟩
  header := by constructor <;> decide
  burstSize := by constructor <;> decide
  frameset := by constructor <;> decide
  scanner := ⟨scannerOk_ref.1, scannerOk_ref.2, scannerOk_ref.3⟩
  outputs := by constructor <;> decide
  conf := by decide
  latch := ⟨latchOk_ref.1, latchOk_ref.2, latchOk_ref.3⟩

theorem witness_MemoriesStayCanonical :
    ∃ s t, MemoriesOk s ∧ step s = .next t := ⟨_, _, machineOk_ref.memories, rfl⟩

theorem witness_CursorsStayInTheirStreams :
    ∃ s t, CursorsOk s ∧ step s = .next t := ⟨_, _, machineOk_ref.cursors, rfl⟩

theorem witness_UnpackerCursorStaysNormalised :
    let s := issuing (cmdWord 0x11 1 12 0) (unpacking [0xABCD0000, 0x12340000] .m16 0 8)
    ∃ t, UnpackerOk s ∧ step s = .next t := by
  refine ⟨_, ?_, rfl⟩
  constructor
  · intro m h; cases h; decide
  · intro m h; cases h; decide
  · decide

theorem witness_HeaderAndBurstSizeStayLegal :
    ∃ s t, s.cfg.wellFormed = true ∧ step s = .next t ∧ HeaderOk s ∧ BurstSizeOk s :=
  ⟨_, _, machineOk_ref.cfg, rfl, machineOk_ref.header, machineOk_ref.burstSize⟩

theorem witness_StatusRegistersStayConsistent :
    ∃ s t, step s = .next t ∧ OutputsOk s ∧ ConfOk s ∧ LatchOk s ∧ ScannerOk s :=
  ⟨_, _, rfl, machineOk_ref.outputs, machineOk_ref.conf, machineOk_ref.latch, machineOk_ref.scanner⟩

theorem witness_MachineInvariantIsKept :
    ∃ s t, MachineOk s ∧ step s = .next t ∧ s.port ≠ [] := ⟨_, _, machineOk_ref, rfl, by decide⟩

theorem witness_NoModelFaultIsReachable : ∃ s, MachineOk s := ⟨_, machineOk_ref⟩

end Sys2Proof.Tests
end

/-!
Which command words decode, which of their fields count, and what a step does with the other words
(R111 and R113 of 30_encoding.md).
-/

namespace Sys2Proof.Laws

open Sys2Proof.Machine

/-! ## Which words decode -/

/-- The op values of the opcode table (R111). -/
def tableOps : List Nat :=
  [0x01, 0x02, 0x03, 0x10, 0x11, 0x12, 0x18, 0x20, 0x21, 0x28, 0x30, 0x31, 0x32, 0x38, 0x39, 0x3A, 0x40, 0x41]

/-- The decoder's two answers, by the op field alone. -/
theorem decode_cases (w : CmdWord) :
    ((∃ i, decode w = .ok i) ∧ (cmdOp w).toNat ∈ tableOps) ∨
    (decode w = .error (.illegalOp (cmdOp w)) ∧ (cmdOp w).toNat ∉ tableOps) := by
  unfold decode
  split
  case h_19 => exact .inr ⟨rfl, by simp_all [tableOps]⟩
  all_goals
    rename_i hop
    exact .inl ⟨⟨_, rfl⟩, by simp [tableOps, hop]⟩

theorem decode_ok_iff_op_mem_tableOps (w : CmdWord) : (∃ i, decode w = .ok i) ↔ (cmdOp w).toNat ∈ tableOps := by
  rcases decode_cases w with ⟨hok, hmem⟩ | ⟨herr, hmem⟩
  · exact iff_of_true hok hmem
  · exact iff_of_false (by simp [herr]) hmem

theorem decode_eq_illegalOp {w : CmdWord} (h : ¬ ∃ i, decode w = .ok i) :
    decode w = .error (.illegalOp (cmdOp w)) := by
  rcases decode_cases w with ⟨hok, -⟩ | ⟨herr, -⟩
  · exact absurd hok h
  · exact herr

/-! ## Which fields count -/

/-- The op values of the operations with a second operand, field b (R111). -/
def secondOperandOps : List (BitVec 8) := [0x03, 0x10, 0x11, 0x12, 0x18, 0x28, 0x3A]

/-- The op values of the operations with an operand, field a (R111). -/
def firstOperandOps : List (BitVec 8) := 0x02 :: secondOperandOps

/-- From the number the decoder matches on to membership in a list of op values. -/
theorem mem_ops_of_toNat_eq {op : BitVec 8} {ops : List (BitVec 8)} {n : Nat} (h : op.toNat = n)
    (hn : BitVec.ofNat 8 n ∈ ops) : op ∈ ops := by
  subst h
  simpa using hn

/-- The decoder reads the op field and, of the others, only those that the operation has (R113). -/
theorem decode_eq_of_read_fields_eq {w w' : CmdWord} (hop : cmdOp w = cmdOp w')
    (ha : cmdOp w ∈ firstOperandOps → cmdA w = cmdA w') (hb : cmdOp w ∈ secondOperandOps → cmdB w = cmdB w')
    (hc : cmdOp w = 0x28 → cmdC w = cmdC w') : decode w = decode w' := by
  unfold decode
  rw [← hop]
  split
  case h_2 h => rw [ha (mem_ops_of_toNat_eq h (by decide))]
  case h_3 h | h_4 h | h_5 h | h_6 h | h_7 h | h_16 h =>
    rw [ha (mem_ops_of_toNat_eq h (by decide)), hb (mem_ops_of_toNat_eq h (by decide))]
  case h_10 h =>
    rw [ha (mem_ops_of_toNat_eq h (by decide)), hb (mem_ops_of_toNat_eq h (by decide)), hc (BitVec.eq_of_toNat_eq h)]
  all_goals rfl

/-! ## What a step does with a word that does not decode -/

/-- `raise` gives the state that the obligations write for it. -/
theorem raise_eq_raisedState (s : State) (k : ErrKind) (info : Nat) : s.raise k info = raisedState s k.code info := rfl

theorem illegalCommand_running {s : State} (hr : Running s) (op : BitVec 8) :
    illegalCommand s op = .next (s.raise .illegalOp op.toNat) := by
  rw [illegalCommand, runOp_clear hr, finish_raised]

theorem step_of_illegalOp {s : State} {w : CmdWord} {rest : List CmdWord} {op : BitVec 8} (hp : s.port = w :: rest)
    (hd : decode w = .error (.illegalOp op)) : step s = illegalCommand { s with port := rest } op := by
  simp only [step, State.takeCommand, hp, runCommand, hd]

theorem step_illegal_running {s : State} {w : CmdWord} {rest : List CmdWord} (hp : s.port = w :: rest)
    (hr : Running s) (hd : ¬ ∃ i, decode w = .ok i) :
    step s = .next (raisedState { s with port := rest } 10 (cmdOp w).toNat) := by
  have hr' : Running { s with port := rest } := hr
  rw [step_of_illegalOp hp (decode_eq_illegalOp hd), illegalCommand_running hr', raise_eq_raisedState]
  rfl

/-- Settles O3: the answers of `decode` by the op field, the step on the words it refuses, and the fields it reads. -/
theorem illegalCommandWords : Obligations.IllegalCommandWords := by
  refine ⟨decode_ok_iff_op_mem_tableOps, fun _ _ _ => step_illegal_running, ?fieldC, ?fieldB, ?fieldA⟩
  case fieldC =>
    intro op a b c c' hc
    refine decode_eq_of_read_fields_eq (by simp) (by simp) (by simp) ?_
    rw [cmdOp_cmdWord]
    exact fun h => absurd h hc
  case fieldB =>
    intro op a b b' c hb
    refine decode_eq_of_read_fields_eq (by simp) (by simp) ?_ (by simp)
    rw [cmdOp_cmdWord]
    exact fun h => absurd h hb
  case fieldA =>
    intro op a a' b c ha
    refine decode_eq_of_read_fields_eq (by simp) ?_ (by simp) (by simp)
    rw [cmdOp_cmdWord]
    exact fun h => absurd h ha

end Sys2Proof.Laws

/-!
What each operation does to the bit unpacker's registers, and that every step keeps the cursor normalised and inside its
buffer (R131, R132 of 41_bit_unpacker.md).
-/

namespace Sys2Proof.Laws

open Sys2Proof.Machine

/-! ## Operations that leave the unpacker's registers -/

@[simp] theorem writeReg_cfg (s : State) (r : Reg) (b : Word32) : (s.writeReg r b).cfg = s.cfg := by cases r <;> rfl

@[simp] theorem writeReg_bu (s : State) (r : Reg) (b : Word32) : (s.writeReg r b).bu = s.bu := by cases r <;> rfl

@[simp] theorem deWarn_cfg (m : DataMode) (f : DeFields) (s : State) : (deWarn m f s).cfg = s.cfg := by
  rcases deWarn_cases m f s with h | h <;> simp [h]

@[simp] theorem deWarn_bu (m : DataMode) (f : DeFields) (s : State) : (deWarn m f s).bu = s.bu := by
  rcases deWarn_cases m f s with h | h <;> simp [h]

/-- The operations whose rules write the BU_* registers (R131, R134, R182, R360). -/
def writesUnpacker : Instr → Bool
  | .sysReset | .buInit _ _ | .buUnpack _ _ | .deParse _ _ => true
  | _ => false

/-- Every other operation commits a state with the same BU_* registers, under the same configuration. -/
theorem bodyOf_keeps_bu_cfg {i : Instr} {s t : State} (hi : writesUnpacker i = false) (h : bodyOf i s = .ok t) :
    t.bu = s.bu ∧ t.cfg = s.cfg := by
  cases i with
  | sysReset | buInit _ _ | buUnpack _ _ | deParse _ _ => cases hi
  | csrRd reg =>
    simp only [bodyOf] at h
    split at h
    · cases h; exact ⟨rfl, rfl⟩
    · cases h
  | csrWr reg value => obtain ⟨r, -, -, -, rfl⟩ := csrWrBody_ok h; simp
  | buUnkey key numItems => obtain ⟨m, u, -, -, rfl⟩ := buUnkeyBody_ok h; simp
  | hdrParse | hdrPeek =>
    rcases hdrBody_ok h with ⟨-, rfl⟩ | ⟨v, -, ⟨-, rfl⟩ | ⟨f, -, -, rfl⟩ | ⟨f, -, -, -, rfl⟩⟩ <;> simp
  | bszSize format frc frameIndex => obtain ⟨size, -, rfl⟩ := bszSizeBody_ok h; simp
  | fsOffer =>
    obtain ⟨-, -, -, -, ⟨-, rfl⟩ | ⟨-, -, -, -, rfl⟩⟩ := fsOfferBody_ok h <;> simp
  | fsFlush | fsClear => cases h; exact ⟨rfl, rfl⟩
  | burstEnc => obtain ⟨-, -, -, -, -, rfl⟩ := burstEncBody_ok h; simp
  | burstEncalt => obtain ⟨-, -, -, T, -, -, -, -, -, rfl⟩ := burstEncaltBody_ok h; simp
  | burstEncde len depth => obtain ⟨m, -, -, -, -, -, -, -, -, rfl⟩ := burstEncdeBody_ok h; simp
  | scanFind => rcases scanFindBody_ok h with rfl | ⟨p, m, -, rfl⟩ <;> simp
  | burstDec => obtain ⟨-, -, rfl⟩ := burstDecBody_ok h; simp

/-! ## The cursor of a state -/

/-- The invariant speaks of the BU_* registers and the configuration only. -/
theorem unpackerOk_congr {s t : State} (hs : UnpackerOk s) (hbu : t.bu = s.bu) (hcfg : t.cfg = s.cfg) :
    UnpackerOk t where
  normal := by rw [hbu]; exact hs.normal
  inside := by rw [hbu]; exact hs.inside
  fits := by rw [hbu, hcfg]; exact hs.fits

/-- An unpacker that is not initialised has no cursor to bound (R132). -/
theorem unpackerOk_of_depth_none {s : State} (hd : s.bu.depth = none) : UnpackerOk s where
  normal := by simp [hd]
  inside := by simp [hd]
  fits := by simp [hd]

/-- `Within` is what `UnpackerOk` asks of the unit that a state holds, but for the bound by DEBUF. -/
theorem within_of_unpackerOk {s : State} {m : DataMode} (hs : UnpackerOk s) (hd : s.bu.depth = some m) :
    Within m s.bu.len { bu := s.bu, debuf := s.debuf } :=
  ⟨hd, rfl, hs.normal m hd, hs.inside m hd⟩

theorem unpackerOk_of_within {t : State} {m : DataMode} {len : Word32} {u : Unpacker} (hu : Within m len u)
    (hbu : t.bu = u.bu) (hlen : len.toNat ≤ t.cfg.debufCap) : UnpackerOk t := by
  have hmode : ∀ m', t.bu.depth = some m' → m' = m := fun m' hd => by
    rw [hbu, hu.depth] at hd
    exact (Option.some.inj hd).symm
  refine ⟨fun m' hd => ?normal, fun m' hd => ?inside, fun _ => ?fits⟩
  case normal => rw [hmode m' hd, hbu]; exact hu.normal
  case inside => rw [hmode m' hd, hbu, hu.len_eq]; exact hu.inside
  case fits => rw [hbu, hu.len_eq]; exact hlen

/-! ## Operations that write the unpacker's registers -/

/-- BU.INIT starts at position 0 of a buffer that fits DEBUF (R131). -/
theorem buInitBody_unpackerOk {s t : State} {depth len : Word32} (h : buInitBody depth len s = .ok t) :
    UnpackerOk t := by
  obtain ⟨m, -, hlen, rfl⟩ := buInitBody_ok h
  exact unpackerOk_of_within (within_load s m len) rfl hlen

/-- BU.UNPACK moves the cursor inside the buffer it has (R135, R136). -/
theorem buUnpackBody_unpackerOk {s t : State} {n w : Word32} (hs : UnpackerOk s) (h : buUnpackBody n w s = .ok t) :
    UnpackerOk t := by
  obtain ⟨m, out, u, hd, -, -, -, hu, rfl⟩ := buUnpackBody_ok h
  have hlen : s.bu.len.toNat ≤ s.cfg.debufCap := hs.fits (by simp [hd])
  exact unpackerOk_of_within (within_unpackFn (within_of_unpackerOk hs hd) hu) rfl hlen

/-- DE.PARSE leaves the cursor where its sequence, begun at position 0, ends (R182). -/
theorem deParseBody_unpackerOk {s t : State} {len depth : Word32} (h : deParseBody len depth s = .ok t) :
    UnpackerOk t := by
  obtain ⟨m, f, u, -, hlen, hseq, rfl⟩ := deParseBody_ok h
  have hu : Within m len u := deSequence_keeps (Within m len) within_unpackFn within_unkeyFn hseq (within_load s m len)
  exact unpackerOk_of_within hu (by simp) (by simpa using hlen)

theorem bodyOf_keeps_unpackerOk {i : Instr} {s t : State} (hs : UnpackerOk s) (h : bodyOf i s = .ok t) :
    UnpackerOk t := by
  cases hi : writesUnpacker i with
  | false =>
    obtain ⟨hbu, hcfg⟩ := bodyOf_keeps_bu_cfg hi h
    exact unpackerOk_congr hs hbu hcfg
  | true =>
    cases i with
    | sysReset => cases h; exact unpackerOk_of_depth_none rfl
    | buInit depth len => exact buInitBody_unpackerOk h
    | buUnpack numitems numbits => exact buUnpackBody_unpackerOk hs h
    | deParse len depth => exact deParseBody_unpackerOk h
    | _ => cases hi

/-- Settles O55: a step waits, resets, writes the result only, commits a body, or raises. -/
theorem unpackerCursorStaysNormalised : Obligations.UnpackerCursorStaysNormalised := by
  intro s t hs h
  rcases step_next h with rfl | ⟨rest, -, rfl | ⟨v, rfl⟩ | ⟨i, -, -, hbody⟩ | ⟨-, k, info, rfl, -⟩⟩
  · exact hs
  · exact unpackerOk_of_depth_none rfl
  · exact unpackerOk_congr hs rfl rfl
  · exact bodyOf_keeps_unpackerOk (unpackerOk_congr (t := { s with port := rest }) hs rfl rfl) hbody
  · exact unpackerOk_congr hs rfl rfl

end Sys2Proof.Laws

/-!
The refusals of R335, and that operands outside the contract are among them. Each is stated where the meaning tests it:
the depth before the length, the closed set before the missing frame, and so on (assumption log 11).
-/

namespace Sys2Proof.Laws

open Sys2Proof.Machine

/-- A refusal of the body is the operation's. -/
theorem exec_refused_of_body {i : Instr} {s : State} {why : Refusal} (hr : Running s)
    (h : bodyOf i s = .error (.refused why)) : exec i s = .refused why := by
  rw [exec_running hr, h, finish_refused]

/-! ## Operands the contract admits -/

/-- The two tests of a depth operand agree: the one of the contract and the one of the meanings. -/
theorem depthAdmitted_eq_isSome (a : Word32) : depthAdmitted a = (depthOf a.toNat).isSome := by
  have heq : ∀ v : Word32, (a == v) = decide (a.toNat = v.toNat) := fun v => by
    rw [Bool.eq_iff_iff, beq_iff_eq, decide_eq_true_eq, BitVec.toNat_inj]
  simp only [depthAdmitted, heq, depthOf]
  split_ifs <;> simp_all

theorem depthAdmitted_iff_mem (a : Word32) : depthAdmitted a = true ↔ a ∈ ([16, 20, 24] : List Word32) := by
  simp [depthAdmitted, or_assoc]

theorem depthOf_eq_none_of_not_admitted {a : Word32} (h : depthAdmitted a = false) : depthOf a.toNat = none := by
  rwa [depthAdmitted_eq_isSome, Option.isSome_eq_false_iff, Option.isNone_iff_eq_none] at h

theorem depthOf_eq_none_of_notMem {a : Word32} (h : a ∉ ([16, 20, 24] : List Word32)) : depthOf a.toNat = none :=
  depthOf_eq_none_of_not_admitted (Bool.eq_false_iff.2 (mt (depthAdmitted_iff_mem a).1 h))

theorem depthOf_eq_some_of_mem {a : Word32} (h : a ∈ ([16, 20, 24] : List Word32)) : ∃ m, depthOf a.toNat = some m :=
  Option.isSome_iff_exists.1 (by rw [← depthAdmitted_eq_isSome, depthAdmitted_iff_mem]; exact h)

/-- The field widths outside the contract (R134). -/
theorem numbitsAdmitted_eq_false_iff (b : Word32) : numbitsAdmitted b = false ↔ b.toNat = 0 ∨ 32 < b.toNat := by
  rw [← Bool.not_eq_true, numbitsAdmitted, Bool.and_eq_true, decide_eq_true_eq, decide_eq_true_eq]
  omega

section Refusals

variable {s : State} (hr : Running s)

include hr

/-! ## Depth and length: BU.INIT, DE.PARSE, BURST.ENCDE (R131, R181, R254) -/

theorem depth_refused {depth : Word32} (hd : depthOf depth.toNat = none) (len : Word32) :
    exec (.buInit depth len) s = .refused .badBitDepth ∧ exec (.deParse len depth) s = .refused .badBitDepth ∧
      exec (.burstEncde len depth) s = .refused .badBitDepth :=
  ⟨exec_refused_of_body hr (by simp [bodyOf, buInitBody, hd]),
    exec_refused_of_body hr (by simp [bodyOf, deParseBody, hd]),
    exec_refused_of_body hr (by simp [bodyOf, burstEncdeBody, hd])⟩

theorem length_refused {depth len : Word32} {m : DataMode} (hd : depthOf depth.toNat = some m)
    (hlen : s.cfg.debufCap < len.toNat) :
    exec (.buInit depth len) s = .refused .bufferTooLong ∧ exec (.deParse len depth) s = .refused .bufferTooLong ∧
      exec (.burstEncde len depth) s = .refused .bufferTooLong :=
  ⟨exec_refused_of_body hr (by simp [bodyOf, buInitBody, hd, hlen]),
    exec_refused_of_body hr (by simp [bodyOf, deParseBody, hd, hlen]),
    exec_refused_of_body hr (by simp [bodyOf, burstEncdeBody, hd, hlen])⟩

theorem burstEncde_refused_noBurstSize {depth len : Word32} {m : DataMode} (hd : depthOf depth.toNat = some m)
    (hlen : len.toNat ≤ s.cfg.debufCap) (hb : s.bsz.valid = false) :
    exec (.burstEncde len depth) s = .refused .noBurstSize :=
  exec_refused_of_body hr (by simp [bodyOf, burstEncdeBody, hd, hlen, hb])

/-! ## The unpacker: BU.UNPACK, BU.UNKEY (R134, R138) -/

theorem unpacker_refused_notInitialised (hd : s.bu.depth = none) (a b : Word32) :
    exec (.buUnpack a b) s = .refused .unpackerNotInitialised ∧
      exec (.buUnkey a b) s = .refused .unpackerNotInitialised :=
  ⟨exec_refused_of_body hr (by simp [bodyOf, buUnpackBody, hd]),
    exec_refused_of_body hr (by simp [bodyOf, buUnkeyBody, hd])⟩

theorem buUnpack_refused_badFieldWidth (hd : s.bu.depth ≠ none) {numbits : Word32}
    (hw : numbits.toNat = 0 ∨ 32 < numbits.toNat) (numitems : Word32) :
    exec (.buUnpack numitems numbits) s = .refused .badFieldWidth := by
  obtain ⟨m, hm⟩ := Option.ne_none_iff_exists'.1 hd
  have hw' : numbits.toNat < 1 ∨ 32 < numbits.toNat := by omega
  exact exec_refused_of_body hr (by simp only [bodyOf, buUnpackBody, hm, if_pos hw'])

theorem buUnpack_refused_tooManyItems (hd : s.bu.depth ≠ none) {numitems numbits : Word32} (hw1 : 1 ≤ numbits.toNat)
    (hw2 : numbits.toNat ≤ 32) (hn : s.cfg.buoutCap < numitems.toNat) :
    exec (.buUnpack numitems numbits) s = .refused .tooManyItems := by
  obtain ⟨m, hm⟩ := Option.ne_none_iff_exists'.1 hd
  have hw : ¬(numbits.toNat < 1 ∨ 32 < numbits.toNat) := by omega
  exact exec_refused_of_body hr (by simp only [bodyOf, buUnpackBody, hm, if_neg hw, if_pos hn])

/-! ## The frameset: FS.OFFER, BURST.ENC, BURST.ENCALT (R216, R241, R248) -/

theorem fsOffer_refused_framesetClosed (hf : s.fs.state ≠ .accumulating) :
    exec .fsOffer s = .refused .framesetClosed :=
  exec_refused_of_body hr (by simp [bodyOf, fsOfferBody, hf])

theorem fsOffer_refused_noFrame (hf : s.fs.state = .accumulating)
    (hv : s.hdr.valid = false ∨ s.hdr.frameValid = false) : exec .fsOffer s = .refused .noFrame := by
  have hv' : (s.hdr.valid && s.hdr.frameValid) = false := Bool.and_eq_false_iff.2 hv
  exact exec_refused_of_body hr (by simp [bodyOf, fsOfferBody, hf, hv'])

theorem fsOffer_refused_noBurstSize (hf : s.fs.state = .accumulating) (hv : s.hdr.valid = true)
    (hfv : s.hdr.frameValid = true) (hb : s.bsz.valid = false) : exec .fsOffer s = .refused .noBurstSize :=
  exec_refused_of_body hr (by simp [bodyOf, fsOfferBody, hf, hv, hfv, hb])

/-- The encoders of a set are refused for the precondition they share. -/
theorem setEncoders_refused {why : Refusal} (h : closedSetProblem s = some why) :
    exec .burstEnc s = .refused why ∧ exec .burstEncalt s = .refused why :=
  ⟨exec_refused_of_body hr (by simp [bodyOf, burstEncBody, h]),
    exec_refused_of_body hr (by simp [bodyOf, burstEncaltBody, h])⟩

/-! ## The scanner and the cursors: BURST.DEC, CSR.WR (R280, R306) -/

theorem burstDec_refused (hl : s.sc.locked = false) : exec .burstDec s = .refused .noLocatedPreamble :=
  exec_refused_of_body hr (by simp [bodyOf, burstDecBody, hl])

/-- CSR.WR of a writable register is refused where the tests on the value refuse. -/
theorem csrWr_refused {r : Reg} {reg value : Word32} {why : Refusal} (hreg : r.number = reg.toNat)
    (hw : r.writable = true) (hp : writeProblem s r value = some (.refused why)) :
    exec (.csrWr reg value) s = .refused why :=
  exec_refused_of_body hr (by simp [bodyOf, csrWrBody, ← hreg, ofNumber_number, hw, hp])

/-- Operands that alone break the contract are refused (R335); those of BU.UNPACK for want of an unpacker where there is
none. -/
theorem exec_refused_of_not_wellFormed {i : Instr} (h : i.wellFormed = false) : ∃ why, exec i s = .refused why := by
  cases i with
  | buInit depth len => exact ⟨_, (depth_refused hr (depthOf_eq_none_of_not_admitted h) len).1⟩
  | deParse len depth => exact ⟨_, (depth_refused hr (depthOf_eq_none_of_not_admitted h) len).2.1⟩
  | burstEncde len depth => exact ⟨_, (depth_refused hr (depthOf_eq_none_of_not_admitted h) len).2.2⟩
  | buUnpack numitems numbits =>
    by_cases hd : s.bu.depth = none
    · exact ⟨_, (unpacker_refused_notInitialised hr hd _ _).1⟩
    · exact ⟨_, buUnpack_refused_badFieldWidth hr hd ((numbitsAdmitted_eq_false_iff _).1 h) _⟩
  | _ => cases h

end Refusals

/-- Settles O8: the operands outside the contract, then R335's rows in their order, each under the tests before it. -/
theorem refusedOutsideTheContract : Obligations.RefusedOutsideTheContract := by
  refine ⟨fun s i hr => exec_refused_of_not_wellFormed hr, fun s a b hr => ⟨fun ha => ?depth, fun ha hlen => ?length,
    fun ha hlen hb => ?size, fun hd => unpacker_refused_notInitialised hr hd a b,
    fun hd hw => buUnpack_refused_badFieldWidth hr hd hw a,
    fun hd hw1 hw2 hn => buUnpack_refused_tooManyItems hr hd hw1 hw2 hn, fsOffer_refused_framesetClosed hr,
    fsOffer_refused_noFrame hr, fsOffer_refused_noBurstSize hr, fun hf => ?openSet, fun hf hb => ?setSize,
    burstDec_refused hr, fun hpos => ?esPos, fun hpos => ?pcmPos⟩⟩
  case depth => exact depth_refused hr (depthOf_eq_none_of_notMem ha) b
  case length =>
    obtain ⟨m, hm⟩ := depthOf_eq_some_of_mem ha
    exact length_refused hr hm hlen
  case size =>
    obtain ⟨m, hm⟩ := depthOf_eq_some_of_mem ha
    exact burstEncde_refused_noBurstSize hr hm hlen hb
  case openSet => exact setEncoders_refused hr (by simp [closedSetProblem, hf])
  case setSize => exact setEncoders_refused hr (by simp [closedSetProblem, hf, hb])
  case esPos => exact csrWr_refused hr (r := .esPos) rfl rfl (by simp [writeProblem, hpos])
  case pcmPos => exact csrWr_refused hr (r := .pcmPos) rfl rfl (by simp [writeProblem, hpos])

end Sys2Proof.Laws

/-!
The frame-header decoder and the records of a call (42_frame_header.md): what a header decodes to by the range of its bsid,
with every error in order, and the error of a record that starts with no sync.
-/

namespace Sys2Proof.Laws

open Sys2Proof.Machine

/-! ## Fields and block counts -/

/-- A LAYOUT entry's value in quotients and remainders of the header words (R11, R97). -/
theorem layoutField_eq_foldl (f : FieldPos) (h : List Word16) :
    layoutField f h = f.ranges.foldl (fun v r =>
      v * 2 ^ (r.hi - r.lo + 1) + (h.getD r.word 0).toNat / 2 ^ r.lo % 2 ^ (r.hi - r.lo + 1)) 0 := by
  simp only [layoutField, rangeValue, bits, BitRange.width, Nat.shiftRight_eq_div_pow]

/-- NUMBLKS as the list of R99, with the free value behind its end. -/
theorem numBlks_eq_getD : ∀ k : Nat, numBlks k = [1, 2, 3, 6].getD k (Config.numBlksBeyond k).toNat
  | 0 | 1 | 2 | 3 | _ + 4 => rfl

/-! ## The AC-3 frame size (R162) -/

section Ac3Size

variable {c : Cfg} {f k : Nat}

theorem ac3Size_invalidSampleRate (hf : c.nFscod ≤ f) : ac3Size c f k = .error (.raised .invalidSampleRate f) := if_pos hf

theorem ac3Size_invalidDataRate (hf : f < c.nFscod) (hk : c.nFrmsizecod ≤ k) :
    ac3Size c f k = .error (.raised .invalidDataRate k) := by
  rw [ac3Size, if_neg (Nat.not_le.2 hf), if_pos hk]

theorem ac3Size_of_tableEntry (hf : f < c.nFscod) (hk : k < c.nFrmsizecod) {w : BitVec 16}
    (hw : tableEntry c.ac3FrameWords f k = some w) : ac3Size c f k = .ok w.toNat := by
  rw [ac3Size, if_neg (Nat.not_le.2 hf), if_neg (Nat.not_le.2 hk), hw]

end Ac3Size

/-! ## Decoding by the range of the bsid (R159 to R161) -/

/-- A bsid of no kind (R161). -/
theorem kindOf_invalidBsid {b : Nat} (hb : b = 9 ∨ b = 10 ∨ 16 < b) : kindOf b = .error (.raised .invalidBsid b) := by
  rw [kindOf, if_neg (by simp only [Config.bsidAc3Max]; omega),
    if_neg (by simp only [Config.bsidEac3Min, Config.bsidEac3Max]; omega)]

section DecodeHeader

variable {c : Cfg} {alt rev : Bool} {h : List Word16}

theorem decodeHeader_invalidBsid
    (hb : layoutField c.layout.bsid h = 9 ∨ layoutField c.layout.bsid h = 10 ∨ 16 < layoutField c.layout.bsid h) :
    decodeHeader c alt h rev = .error (.raised .invalidBsid (layoutField c.layout.bsid h)) := by
  simp only [decodeHeader, kindOf_invalidBsid hb]

/-- An error of the frame size is the header's, before the frame words are checked (R162). -/
theorem decodeHeader_ac3_of_size_error (hb : layoutField c.layout.bsid h ≤ 8) {e : Exit}
    (he : ac3Size c (layoutField c.layout.fscod h) (layoutField c.layout.frmsizecod h) = .error e) :
    decodeHeader c alt h rev = .error e := by
  simp only [decodeHeader, kindOf_eq_ok.2 (.inl ⟨hb, rfl⟩), decodeAc3, he]

theorem decodeHeader_ac3_of_size (hb : layoutField c.layout.bsid h ≤ 8) {words : Nat}
    (hw : ac3Size c (layoutField c.layout.fscod h) (layoutField c.layout.frmsizecod h) = .ok words) :
    decodeHeader c alt h rev = checkFrameWords
      { kind := .ac3, bsid := layoutField c.layout.bsid h, fscod := layoutField c.layout.fscod h
        frmsizecod := layoutField c.layout.frmsizecod h, frameWords := words, blocks := 6, strmtyp := .indep
        substreamid := 0, byterev := rev } := by
  simp only [decodeHeader, kindOf_eq_ok.2 (.inl ⟨hb, rfl⟩), decodeAc3, hw]

/-- From 11 to 16 CFG_ALT decides first (R160). -/
theorem decodeHeader_eac3 (hb : 11 ≤ layoutField c.layout.bsid h) (hb' : layoutField c.layout.bsid h ≤ 16) :
    decodeHeader c alt h rev = if alt then .error (.raised .configError 1)
      else checkFrameWords (decodeEac3 c h rev (layoutField c.layout.bsid h)) := by
  simp only [decodeHeader, kindOf_eq_ok.2 (.inr ⟨hb, hb', rfl⟩)]

end DecodeHeader

/-- Settles O22: the ranges of bsid one by one; in the AC-3 range the tests of `ac3Size` in their order, in the E-AC-3 range
CFG_ALT, and behind both the check of the frame words. -/
theorem headerFieldsDecode : Obligations.HeaderFieldsDecode := by
  intro c alt rev h
  simp only [← layoutField_eq_foldl]
  refine ⟨decodeHeader_invalidBsid, fun hb hf => ?sampleRate, fun hb hf hk => ?dataRate, fun w hb hf hk hw => ?ac3,
    fun hb hb' halt => ?configError, fun hb hb' halt => ?eac3⟩
  case sampleRate => exact decodeHeader_ac3_of_size_error hb (ac3Size_invalidSampleRate hf)
  case dataRate => exact decodeHeader_ac3_of_size_error hb (ac3Size_invalidDataRate hf hk)
  case ac3 => exact decodeHeader_ac3_of_size hb (ac3Size_of_tableEntry hf hk hw)
  case configError => rw [decodeHeader_eac3 hb hb', if_pos halt]
  case eac3 =>
    rw [decodeHeader_eac3 hb hb', if_neg (by simp [halt]), ← numBlks_eq_getD]
    rfl

/-! ## A record that starts with no sync (R155) -/

/-- Settles O27: the pass at the record raises, and what the pass at a record of the call raises, the operation raises. -/
theorem missingSyncRaises : Obligations.MissingSyncRaises := by
  intro s i tc fr p hi hwf hr hreach hl hns
  have hpass : ∀ v : ParseVars, v.p = p → parsePass s (justInfo i) v = .error (.raised .syncError p) := by
    rintro v rfl
    exact parsePass_noSync hns hl
  exact exec_of_pass hwf hi hr hreach fun v hv _ _ => hpass v hv

end Sys2Proof.Laws

/-!
BSZ.SIZE on codes the tables do not have (44_burst_size.md): the two places where `SizeFor` raises ConfigError (R202, R203).
-/

namespace Sys2Proof.Laws

open Sys2Proof.Machine

/-- What the body raises, the operation raises. -/
theorem exec_raised_of_body {i : Instr} {s : State} {kind : ErrKind} {info : Nat} (hr : Running s)
    (h : bodyOf i s = .error (.raised kind info)) : exec i s = .next (raisedState s kind.code info) := by
  rw [exec_running hr, h, finish_raised, raise_eq_raisedState]

/-! ## The raises of `SizeFor` (R202) -/

/-- The codes above DOLBYE are UNKNOWN's, 3, and those that name no format. -/
theorem formatOfCode_of_two_lt : ∀ {f : Nat}, 2 < f → Format.ofCode f = some .unknown ∨ Format.ofCode f = none
  | 3, _ => .inl rfl
  | _ + 4, _ => .inr rfl

theorem sizeFor_dolbyE (c : Cfg) (frc i : Nat) : sizeFor c 2 frc i = sizeForDolbyE c frc i := rfl

theorem sizeFor_dolbyE_unknownCode {c : Cfg} {frc : Nat} (i : Nat) (hmem : frc ∉ c.deFrcodes) (hne : frc ≠ c.frc2997) :
    sizeFor c 2 frc i = .error (.raised .configError frc) := by
  rw [sizeFor_dolbyE, sizeForDolbyE, if_neg hne, if_neg (by simpa using hmem)]

theorem sizeFor_unknownFormat (c : Cfg) {f : Nat} (frc i : Nat) (hf : 2 < f) :
    sizeFor c f frc i = .error (.raised .configError (0x100 ||| f % 2 ^ 8)) := by
  have hmask : f &&& 0xFF = f % 2 ^ 8 := Nat.and_two_pow_sub_one_eq_mod f 8
  rw [← hmask, sizeFor]
  rcases formatOfCode_of_two_lt hf with h | h <;> rw [h]

/-! ## The operation (R201) -/

/-- BSZ.SIZE raises the ConfigError, ERRCODE 9, that `SizeFor` raises; it writes neither BSZ_SIZE nor BSZ_VALID then. -/
theorem exec_bszSize_configError {s : State} {format frc k : Word32} {info : Nat} (hr : Running s)
    (h : sizeFor s.cfg format.toNat frc.toNat (k.toNat % 5) = .error (.raised .configError info)) :
    exec (.bszSize format frc k) s = .next (raisedState s 9 info) := by
  have hbody : bodyOf (.bszSize format frc k) s = .error (.raised .configError info) := by
    rw [bodyOf, bszSizeBody, h]
  exact exec_raised_of_body hr hbody

/-- Settles O34: `SizeFor` raises on a Dolby E code outside the table, and on a code that names none of the three formats. -/
theorem unknownBurstSizeRaises : Obligations.UnknownBurstSizeRaises := by
  intro s format frc k hr
  refine ⟨fun hmem hne => ?frameRate, fun hf => ?format⟩
  case frameRate => exact exec_bszSize_configError hr (sizeFor_dolbyE_unknownCode _ hmem hne)
  case format => exact exec_bszSize_configError hr (sizeFor_unknownFormat _ _ _ hf)

end Sys2Proof.Laws

/-!
The cursors (10_state.md section 2.3): that every step keeps ES_POS and PCM_POS inside their streams (R306), and with them
the start of a valid header, where the rewind of FS.OFFER puts ES_POS (R218).
-/

namespace Sys2Proof.Laws

open Sys2Proof.Machine

/-! ## What every step keeps -/

/-- A property that a step can break in two places only, the reset and what a body commits: on every other way the step
writes no more than the port, the result and the status registers. -/
theorem step_keeps {P : State → Prop} {s t : State} (h : step s = .next t)
    (hstatus : ∀ port result stat, P { s with port := port, result := result, stat := stat })
    (hreset : ∀ rest, P ({ s with port := rest } : State).enterReset)
    (hbody : ∀ i rest, bodyOf i { s with port := rest } = .ok t → P t) : P t := by
  rcases step_next h with rfl | ⟨rest, -, rfl | ⟨v, rfl⟩ | ⟨i, -, -, hok⟩ | ⟨-, k, info, rfl, -⟩⟩
  · exact hstatus t.port t.result t.stat
  · exact hreset rest
  · exact hstatus rest v s.stat
  · exact hbody i rest hok
  · exact hstatus rest 0 _

/-! ## Where a record of ES can start -/

/-- A byte offset that ES_POS can hold: even, and at most ES_LEN (R306). -/
def EsPosition (s : State) (p : Word32) : Prop := p.toNat % 2 = 0 ∧ p.toNat ≤ s.strm.esLen.toNat

theorem cursorsOk_iff (s : State) : CursorsOk s ↔ EsPosition s s.strm.esPos ∧
    s.strm.pcmPos.toNat ≤ s.strm.pcmLen.toNat ∧ (s.hdr.valid = true → EsPosition s s.hdr.start) := by
  constructor
  · intro h
    exact ⟨⟨h.esEven, h.esBound⟩, h.pcmBound, fun hv => ⟨h.startEven hv, h.startIn hv⟩⟩
  · rintro ⟨⟨heven, hbound⟩, hpcm, hstart⟩
    exact ⟨heven, hbound, hpcm, fun hv => (hstart hv).1, fun hv => (hstart hv).2⟩

/-- A position that fits the stream loses no bit in its register. -/
theorem esPosition_ofNat {s : State} {p : Nat} (heven : p % 2 = 0) (hp : p ≤ s.strm.esLen.toNat) :
    EsPosition s (BitVec.ofNat 32 p) := by
  have hlt : p < 2 ^ 32 := Nat.lt_of_le_of_lt hp s.strm.esLen.isLt
  rw [EsPosition, BitVec.toNat_ofNat, Nat.mod_eq_of_lt hlt]
  exact ⟨heven, hp⟩

theorem pcmPosition_ofNat {s : State} {p : Nat} (hp : p ≤ s.strm.pcmLen.toNat) :
    (BitVec.ofNat 32 p).toNat ≤ s.strm.pcmLen.toNat := by
  rw [BitVec.toNat_ofNat]
  exact Nat.le_trans (Nat.mod_le _ _) hp

/-! ## Operations that move no cursor -/

/-- `t` has the cursors, the stream lengths and the header of `s`. -/
structure SameCursors (s t : State) : Prop where
  esPos  : t.strm.esPos = s.strm.esPos
  esLen  : t.strm.esLen = s.strm.esLen
  pcmPos : t.strm.pcmPos = s.strm.pcmPos
  pcmLen : t.strm.pcmLen = s.strm.pcmLen
  hdr    : t.hdr = s.hdr

theorem cursorsOk_congr {s t : State} (hs : CursorsOk s) (h : SameCursors s t) : CursorsOk t where
  esEven := by rw [h.esPos]; exact hs.esEven
  esBound := by rw [h.esPos, h.esLen]; exact hs.esBound
  pcmBound := by rw [h.pcmPos, h.pcmLen]; exact hs.pcmBound
  startEven := by rw [h.hdr]; exact hs.startEven
  startIn := by rw [h.hdr, h.esLen]; exact hs.startIn

@[simp] theorem deWarn_strm (m : DataMode) (f : DeFields) (s : State) : (deWarn m f s).strm = s.strm := by
  rcases deWarn_cases m f s with h | h <;> simp [h]

@[simp] theorem deWarn_hdr (m : DataMode) (f : DeFields) (s : State) : (deWarn m f s).hdr = s.hdr := by
  rcases deWarn_cases m f s with h | h <;> simp [h]

/-- The operations whose rules write a cursor or the header registers (R153, R167, R216, R271, R280, R307, R360). -/
def writesCursors : Instr → Bool
  | .sysReset | .csrWr _ _ | .hdrParse | .hdrPeek | .fsOffer | .scanFind | .burstDec => true
  | _ => false

theorem bodyOf_sameCursors {i : Instr} {s t : State} (hi : writesCursors i = false) (h : bodyOf i s = .ok t) :
    SameCursors s t := by
  cases i with
  | sysReset | csrWr _ _ | hdrParse | hdrPeek | fsOffer | scanFind | burstDec => cases hi
  | csrRd reg =>
    simp only [bodyOf] at h
    split at h
    · cases h; constructor <;> rfl
    · cases h
  | buInit depth len => obtain ⟨m, -, -, rfl⟩ := buInitBody_ok h; constructor <;> rfl
  | buUnpack numitems numbits => obtain ⟨m, out, u, -, -, -, -, -, rfl⟩ := buUnpackBody_ok h; constructor <;> rfl
  | buUnkey key numItems => obtain ⟨m, u, -, -, rfl⟩ := buUnkeyBody_ok h; constructor <;> rfl
  | deParse len depth => obtain ⟨m, f, u, -, -, -, rfl⟩ := deParseBody_ok h; constructor <;> simp
  | bszSize format frc frameIndex => obtain ⟨size, -, rfl⟩ := bszSizeBody_ok h; constructor <;> rfl
  | fsFlush | fsClear => cases h; constructor <;> rfl
  | burstEnc => obtain ⟨-, -, -, -, -, rfl⟩ := burstEncBody_ok h; constructor <;> rfl
  | burstEncalt => obtain ⟨-, -, -, T, -, -, -, -, -, rfl⟩ := burstEncaltBody_ok h; constructor <;> rfl
  | burstEncde len depth => obtain ⟨m, -, -, -, -, -, -, -, -, rfl⟩ := burstEncdeBody_ok h; constructor <;> rfl

/-! ## Operations that move a cursor -/

/-- The reset puts both cursors at 0, without a header (R360). -/
theorem enterReset_cursorsOk (s : State) : CursorsOk s.enterReset where
  esEven := rfl
  esBound := Nat.zero_le _
  pcmBound := Nat.zero_le _
  startEven := nofun
  startIn := nofun

/-- CSR.WR writes a cursor only where R306 admits the value. -/
theorem csrWrBody_cursorsOk {s t : State} {reg value : Word32} (hs : CursorsOk s)
    (h : csrWrBody reg value s = .ok t) : CursorsOk t := by
  obtain ⟨r, -, hw, hp, rfl⟩ := csrWrBody_ok h
  obtain ⟨-, hes, hpcm⟩ := writeProblem_none hp
  cases r with
  | esPos => exact { hs with esEven := (hes rfl).1, esBound := (hes rfl).2 }
  | pcmPos => exact { hs with pcmBound := hpcm rfl }
  | cfgAlt | cfgStreamnum | cfgCw | deIndex => exact cursorsOk_congr hs (by constructor <;> rfl)
  | _ => cases hw

/-- A header operation leaves ES_POS behind the records it consumed, and a valid header starts at one of them (R167). -/
theorem hdrBody_cursorsOk {s t : State} {ji : Bool} (hs : CursorsOk s) (h : hdrBody ji s = .ok t) : CursorsOk t := by
  rcases hdrBody_ok h with ⟨-, rfl⟩ | ⟨v, hloop, hcommit⟩
  · exact { hs with startEven := nofun, startIn := nofun }
  · have hv := parseLoop_parsed hloop
    have hin : v.p ≤ s.strm.esLen.toNat := hv.inside hs.esBound
    have hpos : EsPosition s (BitVec.ofNat 32 v.p) := esPosition_ofNat (hv.even hs.esEven) hin
    have hstart : ∀ f, v.found = some f → EsPosition s (BitVec.ofNat 32 f.start) := fun f hf => by
      obtain ⟨-, hle, heven, -⟩ := hv.found f hf
      exact esPosition_ofNat (heven hs.esEven) (Nat.le_trans hle hin)
    rcases hcommit with ⟨-, rfl⟩ | ⟨f, hf, -, rfl⟩ | ⟨f, hf, -, -, rfl⟩
    · exact (cursorsOk_iff _).2 ⟨hpos, hs.pcmBound, nofun⟩
    · exact (cursorsOk_iff _).2 ⟨hpos, hs.pcmBound, fun _ => hstart f hf⟩
    · exact (cursorsOk_iff _).2 ⟨hpos, hs.pcmBound, fun _ => hstart f hf⟩

/-- FS.OFFER moves ES_POS only by the rewind, to the start of the header it was offered (R218). -/
theorem fsOfferBody_cursorsOk {s t : State} (hs : CursorsOk s) (h : fsOfferBody s = .ok t) : CursorsOk t := by
  obtain ⟨-, hvalid, -, -, ⟨-, rfl⟩ | ⟨-, -, -, -, rfl⟩⟩ := fsOfferBody_ok h
  · exact (cursorsOk_iff _).2 ⟨((cursorsOk_iff s).1 hs).2.2 hvalid, hs.pcmBound, nofun⟩
  · exact { hs with startEven := nofun, startIn := nofun }

/-- SCAN.FIND ends at the end of PCM, or behind a preamble of four words inside it (R271, R272). -/
theorem scanFindBody_cursorsOk {s t : State} (hs : CursorsOk s) (h : scanFindBody s = .ok t) : CursorsOk t := by
  rcases scanFindBody_ok h with rfl | ⟨p, m, hlock, rfl⟩
  · exact { hs with pcmBound := Nat.le_refl _ }
  · obtain ⟨-, hin, -⟩ := scanLoop_lock hlock
    exact { hs with pcmBound := pcmPosition_ofNat (Nat.succ_le_of_lt hin) }

/-- BURST.DEC extracts no more than PCM holds (R282). -/
theorem burstDecBody_cursorsOk {s t : State} (hs : CursorsOk s) (h : burstDecBody s = .ok t) : CursorsOk t := by
  obtain ⟨-, hin, rfl⟩ := burstDecBody_ok h
  exact { hs with pcmBound := pcmPosition_ofNat hin }

theorem bodyOf_keeps_cursorsOk {i : Instr} {s t : State} (hs : CursorsOk s) (h : bodyOf i s = .ok t) :
    CursorsOk t := by
  cases hi : writesCursors i with
  | false => exact cursorsOk_congr hs (bodyOf_sameCursors hi h)
  | true =>
    cases i with
    | sysReset => cases h; exact enterReset_cursorsOk s
    | csrWr reg value => exact csrWrBody_cursorsOk hs h
    | hdrParse | hdrPeek => exact hdrBody_cursorsOk hs h
    | fsOffer => exact fsOfferBody_cursorsOk hs h
    | scanFind => exact scanFindBody_cursorsOk hs h
    | burstDec => exact burstDecBody_cursorsOk hs h
    | _ => cases hi

/-- Settles O54: the reset empties the cursors, and each body that moves one keeps it inside its stream. -/
theorem cursorsStayInTheirStreams : Obligations.CursorsStayInTheirStreams := by
  intro s t hs h
  have hcong : ∀ {u : State}, u.strm = s.strm → u.hdr = s.hdr → CursorsOk u := fun hstrm hhdr =>
    cursorsOk_congr hs (by constructor <;> simp [hstrm, hhdr])
  exact step_keeps h (fun _ _ _ => hcong rfl rfl) (fun _ => enterReset_cursorsOk _)
    fun _ rest hbody => bodyOf_keeps_cursorsOk (s := { s with port := rest }) (hcong rfl rfl) hbody

end Sys2Proof.Laws

/-!
The frameset accumulator (45_frameset.md): the capacity rule of FS.OFFER (R219), FS.FLUSH and FS.CLEAR (R225, R227), and that
every step keeps the accumulator's invariants (R228).
-/

namespace Sys2Proof.Laws

open Sys2Proof.Machine

/-- What the body commits, the operation answers. -/
theorem exec_next_of_body {i : Instr} {s t : State} (hr : Running s) (h : bodyOf i s = .ok t) : exec i s = .next t := by
  rw [exec_running hr, h, finish_ok]

/-! ## FS.CLEAR and FS.FLUSH (R225, R227) -/

/-- Settles O39: the set after FS.CLEAR is the set of the reset state. -/
theorem fsClearEmptiesTheSet : Obligations.FsClearEmptiesTheSet :=
  fun _ hr => exec_next_of_body hr rfl

theorem flushedState_pending {fs : FsRegs} (hs : fs.state = .accumulating) (hn : 0 < fs.nframes) :
    flushedState fs = .flushedShort := if_pos ⟨hs, hn⟩

theorem flushedState_noFrames {fs : FsRegs} (hn : fs.nframes = 0) : flushedState fs = fs.state :=
  if_neg fun h => absurd hn (Nat.ne_of_gt h.2)

theorem flushedState_closed {fs : FsRegs} (hs : fs.state ≠ .accumulating) : flushedState fs = fs.state :=
  if_neg fun h => hs h.1

theorem exec_fsFlush {s : State} (hr : Running s) {st : FsState} (h : flushedState s.fs = st) :
    exec .fsFlush s = .next { s with fs := { s.fs with state := st }, result := BitVec.ofNat 32 st.code } := by
  subst h
  exact exec_next_of_body hr rfl

theorem exec_fsFlush_unchanged {s : State} (hr : Running s) (h : flushedState s.fs = s.fs.state) :
    exec .fsFlush s = .next { s with result := BitVec.ofNat 32 s.fs.state.code } := exec_fsFlush hr h

/-- Settles O38: the state of the set after FS.FLUSH, with a frame pending, in an open set without one, in a closed set. -/
theorem fsFlushClosesThePendingSet : Obligations.FsFlushClosesThePendingSet := by
  intro s hr
  refine ⟨fun hs hn => ?pending, fun hs hn => ?noFrames, fun hs => ?closed⟩
  case pending => exact exec_fsFlush hr (flushedState_pending hs hn)
  case noFrames =>
    rw [exec_fsFlush_unchanged hr (flushedState_noFrames hn), hs]
    rfl
  case closed => exact exec_fsFlush_unchanged hr (flushedState_closed hs)

/-! ## The capacity rule of FS.OFFER (R219) -/

theorem blockCountChanges_eq_false {s : State} :
    blockCountChanges s = false ↔ s.fs.nframes = 0 ∨ s.hdr.blocks = s.fs.bpf := by
  simp [blockCountChanges, Nat.pos_iff_ne_zero, imp_iff_not_or]

theorem fsOfferBody_exceeds {s : State} (hs : s.fs.state = .accumulating) (hv : s.hdr.valid = true)
    (hfv : s.hdr.frameValid = true) (hb : s.bsz.valid = true) (hc : blockCountChanges s = false)
    (hx : exceedsCapacity s = true) :
    fsOfferBody s = .error (.raised .capacityExceeded (s.fs.words + s.hdr.frameWords.toNat)) := by
  simp [fsOfferBody, hs, hv, hfv, hb, hc, hx]

/-- Only the append adds a frame, and only behind the test of the capacity. -/
theorem fsOffer_added {s t : State} (hr : Running s) (h : exec .fsOffer s = .next t)
    (hn : t.fs.nframes = s.fs.nframes + 1) :
    t = appendFrame s ∧
      Config.preambleWords + s.fs.words + s.hdr.frameWords.toNat + Config.capGuard ≤ s.bsz.size.toNat := by
  rw [exec_running hr] at h
  rcases finish_next h with hok | ⟨k, info, -, rfl⟩
  · obtain ⟨-, -, -, -, ⟨-, rfl⟩ | ⟨-, hfit, -, -, rfl⟩⟩ := fsOfferBody_ok hok
    · exact absurd hn (Nat.ne_of_lt (Nat.lt_succ_self _))
    · exact ⟨rfl, hfit⟩
  · exact absurd hn (Nat.ne_of_lt (Nat.lt_succ_self _))

/-- Settles O37: the raise of the test, and what the test leaves through. -/
theorem fsOfferKeepsTheCapacity : Obligations.FsOfferKeepsTheCapacity := by
  refine fun s hr => ⟨fun hs hv hfv hb hblocks hx => ?raised, fun t h hn => ?added⟩
  case raised =>
    exact exec_raised_of_body hr (kind := .capacityExceeded)
      (fsOfferBody_exceeds hs hv hfv hb (blockCountChanges_eq_false.2 hblocks) (decide_eq_true hx))
  case added =>
    obtain ⟨rfl, hfit⟩ := fsOffer_added hr h hn
    have hwords : (appendFrame s).fs.words = s.fs.words + s.hdr.frameWords.toNat := rfl
    simp only [Config.preambleWords, Config.capGuard] at hfit
    omega

/-! ## Operations that leave the set -/

@[simp] theorem writeReg_fs (s : State) (r : Reg) (b : Word32) : (s.writeReg r b).fs = s.fs := by cases r <;> rfl

@[simp] theorem deWarn_fs (m : DataMode) (f : DeFields) (s : State) : (deWarn m f s).fs = s.fs := by
  rcases deWarn_cases m f s with h | h <;> simp [h]

/-- The operations whose rules write the FS registers (R216, R225, R227, R360). -/
def writesFrameset : Instr → Bool
  | .sysReset | .fsOffer | .fsFlush | .fsClear => true
  | _ => false

theorem bodyOf_keeps_fs_cfg {i : Instr} {s t : State} (hi : writesFrameset i = false) (h : bodyOf i s = .ok t) :
    t.fs = s.fs ∧ t.cfg = s.cfg := by
  cases i with
  | sysReset | fsOffer | fsFlush | fsClear => cases hi
  | csrRd reg =>
    simp only [bodyOf] at h
    split at h
    · cases h; exact ⟨rfl, rfl⟩
    · cases h
  | csrWr reg value => obtain ⟨r, -, -, -, rfl⟩ := csrWrBody_ok h; simp
  | buInit depth len => obtain ⟨m, -, -, rfl⟩ := buInitBody_ok h; simp
  | buUnpack numitems numbits => obtain ⟨m, out, u, -, -, -, -, -, rfl⟩ := buUnpackBody_ok h; simp
  | buUnkey key numItems => obtain ⟨m, u, -, -, rfl⟩ := buUnkeyBody_ok h; simp
  | deParse len depth => obtain ⟨m, f, u, -, -, -, rfl⟩ := deParseBody_ok h; simp
  | hdrParse | hdrPeek =>
    rcases hdrBody_ok h with ⟨-, rfl⟩ | ⟨v, -, ⟨-, rfl⟩ | ⟨f, -, -, rfl⟩ | ⟨f, -, -, -, rfl⟩⟩ <;> simp
  | bszSize format frc frameIndex => obtain ⟨size, -, rfl⟩ := bszSizeBody_ok h; simp
  | burstEnc => obtain ⟨-, -, -, -, -, rfl⟩ := burstEncBody_ok h; simp
  | burstEncalt => obtain ⟨-, -, -, T, -, -, -, -, -, rfl⟩ := burstEncaltBody_ok h; simp
  | burstEncde len depth => obtain ⟨m, -, -, -, -, -, -, -, -, rfl⟩ := burstEncdeBody_ok h; simp
  | scanFind => rcases scanFindBody_ok h with rfl | ⟨p, m, -, rfl⟩ <;> simp
  | burstDec => obtain ⟨-, -, rfl⟩ := burstDecBody_ok h; simp

theorem framesetOk_congr {s t : State} (hs : FramesetOk s) (hfs : t.fs = s.fs) (hcfg : t.cfg = s.cfg) :
    FramesetOk t where
  fscodWidth := by rw [hfs, hcfg]; exact hs.fscodWidth
  frmsizecodWidth := by rw [hfs, hcfg]; exact hs.frmsizecodWidth
  most := by rw [hfs]; exact hs.most
  complete := by rw [hfs]; exact hs.complete
  short := by rw [hfs]; exact hs.short
  none := by rw [hfs]; exact hs.none
  perFrame := by rw [hfs]; exact hs.perFrame
  multiple := by rw [hfs]; exact hs.multiple
  least := by rw [hfs]; exact hs.least
  fits := by rw [hfs, hcfg]; exact hs.fits
  ac3Codes := by rw [hfs, hcfg]; exact hs.ac3Codes

/-! ## The empty set and the short flush -/

theorem framesetOk_of_reset {t : State} (h : t.fs = FsRegs.reset) : FramesetOk t := by
  constructor <;> rw [h] <;> simp [FsRegs.reset]

theorem blocks_lt_six {s : State} (hs : FramesetOk s) (hstate : s.fs.state = .accumulating) : s.fs.blocks.toNat < 6 := by
  have hne : s.fs.blocks.toNat ≠ 6 := fun h6 => by
    have := hs.complete.1 h6
    rw [hstate] at this
    cases this
  exact Nat.lt_of_le_of_ne hs.most hne

/-- A flush of an open set with frames keeps everything but the state (R217, R225). -/
theorem framesetOk_of_flush {s t : State} (hs : FramesetOk s) (hstate : s.fs.state = .accumulating)
    (hn : 0 < s.fs.nframes) (hfs : t.fs = { s.fs with state := .flushedShort }) (hcfg : t.cfg = s.cfg) :
    FramesetOk t := by
  have hlt := blocks_lt_six hs hstate
  have hflushed : FramesetOk { s with fs := { s.fs with state := .flushedShort } } :=
    { hs with
      complete := iff_of_false (Nat.ne_of_lt hlt) nofun
      short := fun _ => ⟨hn, hlt⟩ }
  exact framesetOk_congr hflushed hfs hcfg

theorem fsFlushBody_framesetOk {s t : State} (hs : FramesetOk s) (h : fsFlushBody s = .ok t) : FramesetOk t := by
  cases h
  by_cases hp : s.fs.state = .accumulating ∧ 0 < s.fs.nframes
  · obtain ⟨hstate, hn⟩ := hp
    exact framesetOk_of_flush hs hstate hn (by rw [flushedState_pending hstate hn]) rfl
  · have hkept : flushedState s.fs = s.fs.state := if_neg hp
    exact framesetOk_congr hs (by rw [hkept]) rfl

/-! ## The append of a frame (R216, R221 to R223) -/

/-- Whole frames of one of the four block counts fill a set exactly: no frame takes an open set past six blocks (R222). -/
theorem add_blockCount {b n : Nat} (hn : blockCount n) (hb : b < 6) (hm : b % n = 0) : b + n ≤ 6 ∧ (b + n) % n = 0 := by
  rcases hn with rfl | rfl | rfl | rfl <;> omega

/-- The 4 bits of FS_BLOCKS hold the sum. -/
theorem toNat_addBlocks {fs : FsRegs} (h : HdrRegs) (hb : fs.blocks.toNat < 6) :
    (addBlocks fs h).toNat =
      if qualifies h.strmtyp h.substreamid then fs.blocks.toNat + h.blocks.toNat else fs.blocks.toNat := by
  have hlt : h.blocks.toNat < 8 := h.blocks.isLt
  rw [addBlocks]
  split
  · simp only [BitVec.toNat_add, BitVec.toNat_setWidth]
    omega
  · rfl

/-- The codes of the set after a frame: the frame's own when it is the first. -/
theorem latchFirst_first {fs : FsRegs} (h : HdrRegs) (hn : fs.nframes = 0) : latchFirst fs h =
    { fs with bpf := h.blocks, format := h.kind, fscod := h.fscod, frmsizecod := h.frmsizecod } := if_pos hn

theorem latchFirst_later {fs : FsRegs} (h : HdrRegs) (hn : fs.nframes ≠ 0) : latchFirst fs h = fs := if_neg hn

/-- A frame that does not flush the set has the set's blocks per frame, first or not (R217). -/
theorem latchFirst_bpf {s : State} (hc : blockCountChanges s = false) : (latchFirst s.fs s.hdr).bpf = s.hdr.blocks := by
  by_cases hn : s.fs.nframes = 0
  · rw [latchFirst_first _ hn]
  · rw [latchFirst_later _ hn]
    exact ((blockCountChanges_eq_false.1 hc).resolve_left hn).symm

/-- The blocks of an open set are whole frames of the size of the offered one. -/
theorem blocks_mod_offered {s : State} (hs : FramesetOk s) (hc : blockCountChanges s = false) :
    s.fs.blocks.toNat % s.hdr.blocks.toNat = 0 := by
  by_cases hn : s.fs.nframes = 0
  · obtain ⟨-, hzero⟩ := hs.none hn
    rw [hzero, Nat.zero_mod]
  · rw [(blockCountChanges_eq_false.1 hc).resolve_left hn]
    exact hs.multiple (Nat.pos_of_ne_zero hn)

/-- The block count after the append is at most six, and a multiple of the blocks per frame. -/
theorem addBlocks_bounds {s : State} (hh : HeaderOk s) (hs : FramesetOk s) (hstate : s.fs.state = .accumulating)
    (hv : s.hdr.valid = true) (hc : blockCountChanges s = false) :
    (addBlocks s.fs s.hdr).toNat ≤ 6 ∧ (addBlocks s.fs s.hdr).toNat % s.hdr.blocks.toNat = 0 := by
  have hlt := blocks_lt_six hs hstate
  have hmod := blocks_mod_offered hs hc
  rw [toNat_addBlocks s.hdr hlt]
  split
  · exact add_blockCount (hh.blocks hv) hlt hmod
  · exact ⟨Nat.le_of_lt hlt, hmod⟩

/-- The set's codes after the append stand in their widths, and an AC-3 set's name an entry of ALT_POINT. -/
theorem latchFirst_codes {s : State} (hh : HeaderOk s) (hs : FramesetOk s) (hv : s.hdr.valid = true) :
    (latchFirst s.fs s.hdr).fscod < 2 ^ hFscodWidth s.cfg ∧
      (latchFirst s.fs s.hdr).frmsizecod < 2 ^ hFrmsizecodWidth s.cfg ∧
      ((latchFirst s.fs s.hdr).format = .ac3 →
        altPointDefined s.cfg (latchFirst s.fs s.hdr).fscod (latchFirst s.fs s.hdr).frmsizecod) := by
  by_cases hn : s.fs.nframes = 0
  · rw [latchFirst_first _ hn]
    exact ⟨hh.fscodWidth, hh.frmsizecodWidth, hh.ac3Codes hv⟩
  · rw [latchFirst_later _ hn]
    exact ⟨hs.fscodWidth, hs.frmsizecodWidth, hs.ac3Codes (Nat.pos_of_ne_zero hn)⟩

theorem appendRegs_state {fs : FsRegs} {h : HdrRegs} (hstate : fs.state = .accumulating) :
    (appendRegs fs h).state = if 6 ≤ (addBlocks fs h).toNat then .complete else .accumulating := by
  rw [← hstate]
  rfl

theorem appendFrame_framesetOk {s : State} (hh : HeaderOk s) (hs : FramesetOk s)
    (hstate : s.fs.state = .accumulating) (hv : s.hdr.valid = true) (hc : blockCountChanges s = false)
    (hfit : Config.preambleWords + s.fs.words + s.hdr.frameWords.toNat + Config.capGuard ≤ s.cfg.fsbufCap) :
    FramesetOk (appendFrame s) := by
  obtain ⟨hmost, hmultiple⟩ := addBlocks_bounds hh hs hstate hv hc
  obtain ⟨hfscod, hfrmsizecod, hac3⟩ := latchFirst_codes hh hs hv
  have hbpf : (appendFrame s).fs.bpf = s.hdr.blocks := latchFirst_bpf hc
  have hstate' : (appendFrame s).fs.state = if 6 ≤ (addBlocks s.fs s.hdr).toNat then .complete else .accumulating :=
    appendRegs_state hstate
  refine
    { fscodWidth := hfscod, frmsizecodWidth := hfrmsizecod, most := hmost, complete := ?complete, short := ?short
      none := nofun, perFrame := fun _ => ?perFrame, multiple := fun _ => ?multiple, least := ?least
      fits := fun _ => ?fits, ac3Codes := fun _ => hac3 }
  case complete =>
    have hblocks : (appendFrame s).fs.blocks.toNat = 6 ↔ 6 ≤ (addBlocks s.fs s.hdr).toNat :=
      ⟨fun h => Nat.le_of_eq h.symm, Nat.le_antisymm hmost⟩
    rw [hblocks, hstate']
    split <;> simp [*]
  case short =>
    rw [hstate']
    split <;> exact nofun
  case perFrame => rw [hbpf]; exact hh.blocks hv
  case multiple => rw [hbpf]; exact hmultiple
  case least =>
    show Config.hdrWords * (s.fs.nframes + 1) ≤ s.fs.words + s.hdr.frameWords.toNat
    exact Nat.add_le_add hs.least (hh.whole hv)
  case fits =>
    show Config.preambleWords + (s.fs.words + s.hdr.frameWords.toNat) + Config.capGuard ≤ s.cfg.fsbufCap
    omega

theorem fsOfferBody_framesetOk {s t : State} (hh : HeaderOk s) (hb : BurstSizeOk s) (hs : FramesetOk s)
    (h : fsOfferBody s = .ok t) : FramesetOk t := by
  obtain ⟨hstate, hv, -, hbv, ⟨hc, rfl⟩ | ⟨hc, hfit, -, -, rfl⟩⟩ := fsOfferBody_ok h
  · have hn : 0 < s.fs.nframes := of_decide_eq_true (Bool.and_eq_true_iff.1 hc).1
    exact framesetOk_of_flush hs hstate hn rfl rfl
  · exact appendFrame_framesetOk hh hs hstate hv hc (Nat.le_trans hfit (hb.fits hbv))

/-! ## Every step -/

theorem bodyOf_keeps_framesetOk {i : Instr} {s t : State} (hh : HeaderOk s) (hb : BurstSizeOk s) (hs : FramesetOk s)
    (h : bodyOf i s = .ok t) : FramesetOk t := by
  cases hi : writesFrameset i with
  | false =>
    obtain ⟨hfs, hcfg⟩ := bodyOf_keeps_fs_cfg hi h
    exact framesetOk_congr hs hfs hcfg
  | true =>
    cases i with
    | sysReset | fsClear => cases h; exact framesetOk_of_reset rfl
    | fsOffer => exact fsOfferBody_framesetOk hh hb hs h
    | fsFlush => exact fsFlushBody_framesetOk hs h
    | _ => cases hi

/-- Settles O40: the reset empties the set, and of the bodies only those of the three FS operations change it. -/
theorem framesetInvariantIsKept : Obligations.FramesetInvariantIsKept := by
  intro s t hh hb hs h
  exact step_keeps h (fun _ _ _ => framesetOk_congr hs rfl rfl) (fun _ => framesetOk_of_reset rfl)
    fun _ rest hbody => bodyOf_keeps_framesetOk (s := { s with port := rest })
      { hh with } { hb with } (framesetOk_congr hs rfl rfl) hbody

end Sys2Proof.Laws

/-!
The raises of the three encoders (46_burst_encode.md): each operation's tests in their order, the capacity of the burst and
of Pd last (R242, R243, R249, R257).
-/

namespace Sys2Proof.Laws

open Sys2Proof.Machine

/-! ## The bit length and Pd (R243) -/

/-- The bit length does not fit Pd. -/
theorem pdOverflows_eq_true {m : DataMode} {n : Nat} : pdOverflows m n = true ↔ 2 ^ m.bits ≤ m.bits * n :=
  decide_eq_true_iff

/-- A 16-bit Pd holds the bit length of at most 4095 words. -/
theorem pdOverflows_m16_eq_true {n : Nat} : pdOverflows .m16 n = true ↔ 4096 ≤ n := by
  rw [pdOverflows_eq_true, DataMode.bits]
  omega

/-! ## The encoders of a set: BURST.ENC and BURST.ENCALT -/

theorem closedSetProblem_eq_none {s : State} (hf : s.fs.state ≠ .accumulating) (hb : s.bsz.valid = true) :
    closedSetProblem s = none := by
  simp [closedSetProblem, hf, hb]

section SetEncoders

variable {s : State} (hr : Running s) (hset : closedSetProblem s = none)

include hr hset

/-- R242, R243: the two tests of BURST.ENC raise alike. -/
theorem exec_burstEnc_capacityExceeded (h : s.bsz.size.toNat < 4 + s.fs.words ∨ 4096 ≤ s.fs.words) :
    exec .burstEnc s = .next (raisedState s 7 s.fs.words) := by
  have hbody : bodyOf .burstEnc s = .error (.raised .capacityExceeded s.fs.words) := by
    simp only [bodyOf, burstEncBody, hset, pdOverflows_m16_eq_true]
    rw [← ite_or, if_pos h]
  exact exec_raised_of_body hr hbody

/-- R249: the format is the first thing BURST.ENCALT tests. -/
theorem exec_burstEncalt_configError (hformat : s.fs.format ≠ .ac3) :
    exec .burstEncalt s = .next (raisedState s 9 2) := by
  have hbody : bodyOf .burstEncalt s = .error (.raised .configError 2) := by
    simp only [bodyOf, burstEncaltBody, hset, if_pos hformat]
  exact exec_raised_of_body hr hbody

/-- R249, R250: the set must end at the boundary, the boundary lie in the burst, and the bit length fit Pd. -/
theorem exec_burstEncalt_capacityExceeded {T : Nat} (hformat : s.fs.format = .ac3) (hT : altPointOf s = some T)
    (h : s.bsz.size.toNat < T ∨ T < 4 + s.fs.words ∨ 4096 ≤ s.fs.words) :
    exec .burstEncalt s = .next (raisedState s 7 s.fs.words) := by
  have hbody : bodyOf .burstEncalt s = .error (.raised .capacityExceeded s.fs.words) := by
    simp only [bodyOf, burstEncaltBody, hset, if_neg (not_not_intro hformat), hT, pdOverflows_m16_eq_true]
    rw [← ite_or, if_pos (or_assoc.2 h)]
  exact exec_raised_of_body hr hbody

end SetEncoders

/-! ## The encoder of a Dolby E frame: BURST.ENCDE -/

section DolbyEEncoder

variable {s : State} {len depth : Word32} {m : DataMode} (hr : Running s) (hd : depthOf depth.toNat = some m)
  (hlen : len.toNat ≤ s.cfg.debufCap) (hb : s.bsz.valid = true)

include hd hlen hb

/-- Under its preconditions BURST.ENCDE runs through four tests, each with its raise (R257). -/
theorem burstEncdeBody_of_preconditions : burstEncdeBody len depth s =
    if s.conf.alt then .error (.raised .configError 3)
    else if len.toNat < 4 then .error (.raised .readError len.toNat)
    else if s.bsz.size.toNat < len.toNat ∨ pdOverflows m (len.toNat - 4) then
      .error (.raised .capacityExceeded (len.toNat - 4))
    else .ok (countDolbyE (appendBurst s (dolbyEBurst s m len.toNat) 32)) := by
  simp only [burstEncdeBody, hd, if_neg (Nat.not_lt.2 hlen), hb, reduceCtorEq, if_false, ite_or]

include hr

theorem exec_burstEncde_configError (halt : s.conf.alt = true) :
    exec (.burstEncde len depth) s = .next (raisedState s 9 3) := by
  have hbody : bodyOf (.burstEncde len depth) s = .error (.raised .configError 3) := by
    rw [bodyOf, burstEncdeBody_of_preconditions hd hlen hb, if_pos halt]
  exact exec_raised_of_body hr hbody

theorem exec_burstEncde_readError (halt : s.conf.alt = false) (hshort : len.toNat < 4) :
    exec (.burstEncde len depth) s = .next (raisedState s 1 len.toNat) := by
  have hbody : bodyOf (.burstEncde len depth) s = .error (.raised .readError len.toNat) := by
    rw [bodyOf, burstEncdeBody_of_preconditions hd hlen hb, if_neg (by simp [halt]), if_pos hshort]
  exact exec_raised_of_body hr hbody

theorem exec_burstEncde_capacityExceeded (halt : s.conf.alt = false) (hfour : 4 ≤ len.toNat)
    (h : s.bsz.size.toNat < len.toNat ∨ 2 ^ m.bits ≤ m.bits * (len.toNat - 4)) :
    exec (.burstEncde len depth) s = .next (raisedState s 7 (len.toNat - 4)) := by
  have hbody : bodyOf (.burstEncde len depth) s = .error (.raised .capacityExceeded (len.toNat - 4)) := by
    rw [bodyOf, burstEncdeBody_of_preconditions hd hlen hb, if_neg (by simp [halt]), if_neg (Nat.not_lt.2 hfour),
      if_pos (h.imp_right pdOverflows_eq_true.2)]
  exact exec_raised_of_body hr hbody

end DolbyEEncoder

/-- Settles O44: the raises of the two encoders of a set behind their shared precondition, then those of BURST.ENCDE. -/
theorem encodersRaise : Obligations.EncodersRaise := by
  intro s T len depth m hr hb
  refine ⟨fun hf => ?set, fun hdepth hlen => ?dolbyE⟩
  case set =>
    have hset := closedSetProblem_eq_none hf hb
    exact ⟨exec_burstEnc_capacityExceeded hr hset, exec_burstEncalt_configError hr hset,
      exec_burstEncalt_capacityExceeded hr hset⟩
  case dolbyE =>
    have hd := depthOf_eq_some.2 hdepth
    exact ⟨exec_burstEncde_configError hr hd hlen hb, exec_burstEncde_readError hr hd hlen hb,
      exec_burstEncde_capacityExceeded hr hd hlen hb⟩

end Sys2Proof.Laws

/-!
The sync scanner and burst extraction (47_sync_scan_decode.md): how SCAN.FIND ends where no preamble stands whole in the
stream (R272, R275), and what BURST.DEC extracts (R280 to R283).
-/

namespace Sys2Proof.Laws

open Sys2Proof.Machine

/-! ## The preamble of the claims and the match of the loop (R91, R270) -/

/-- The hypothesis under which the claims read a container is the one `hyp` answers. -/
theorem hyp_eq_some_iff {c : Cfg} {w : Container} {m : DataMode} : hyp c w = some m ↔ HypothesisIs c w m := by
  by_cases h16 : rj w 16 = c.pa16.toNat
  · cases m <;> simp [hyp, paOf, HypothesisIs, h16]
  by_cases h20 : rj w 20 = c.pa20.toNat
  · cases m <;> simp [hyp, paOf, HypothesisIs, h16, h20]
  by_cases h24 : rj w 24 = c.pa24.toNat
  · cases m <;> simp [hyp, paOf, HypothesisIs, h16, h20, h24]
  · cases m <;> simp [hyp, paOf, HypothesisIs, h16, h20, h24]

theorem matches_iff_preambleAt {s : State} {p : Nat} {m : DataMode} : Matches s.cfg s.pcm p m ↔ PreambleAt s p m :=
  and_congr_left' hyp_eq_some_iff

/-! ## The ends of SCAN.FIND without a lock (R272, R275) -/

section Scan

variable {s : State}

/-- How the scan of a call ends (R271). -/
def scanEnd (s : State) : ScanEnd :=
  scanLoop s.cfg s.pcm s.strm.pcmLen.toNat (s.strm.pcmLen.toNat - s.strm.pcmPos.toNat) s.strm.pcmPos.toNat

theorem scanFindBody_of_eof (h : scanEnd s = .eof) : scanFindBody s = .ok (scanEof s) := by
  rw [scanEnd] at h
  simp only [scanFindBody, h]

theorem scanFindBody_of_truncated {q : Nat} (h : scanEnd s = .truncated q) :
    scanFindBody s = .error (.raised .readError q) := by
  rw [scanEnd] at h
  simp only [scanFindBody, h]

/-- No preamble between the cursor and the end of the stream; a cursor past the end scans nothing. -/
theorem scanEnd_eq_eof
    (hnone : ∀ j m, s.strm.pcmPos.toNat ≤ j → j + 1 < s.strm.pcmLen.toNat → ¬ PreambleAt s j m) :
    scanEnd s = .eof := by
  rcases Nat.le_total s.strm.pcmPos.toNat s.strm.pcmLen.toNat with hin | hpast
  · exact scanLoop_eof _ _ (Nat.add_sub_of_le hin) fun j hj hend m hm =>
      hnone j m hj hend (matches_iff_preambleAt.1 hm)
  · rw [scanEnd, Nat.sub_eq_zero_of_le hpast, scanLoop]

/-- The scan ends at the first preamble ahead of the cursor, whole or truncated. -/
theorem scanEnd_eq_of_first_preamble {q : Nat} {m : DataMode} (hpos : s.strm.pcmPos.toNat ≤ q)
    (hend : q + 1 < s.strm.pcmLen.toNat) (hq : PreambleAt s q m)
    (hfirst : ∀ j m', s.strm.pcmPos.toNat ≤ j → j < q → ¬ PreambleAt s j m') :
    scanEnd s = if s.strm.pcmLen.toNat ≤ q + 3 then .truncated q else .lock q m :=
  scanLoop_first _ _ q hpos hend (by omega) (matches_iff_preambleAt.2 hq) fun j hj hlt m' hm =>
    hfirst j m' hj hlt (matches_iff_preambleAt.1 hm)

end Scan

/-- Settles O47: without a match the loop ends with Eof, and the operation commits `scanEof`. -/
theorem scanReportsEof : Obligations.ScanReportsEof :=
  fun _ hr hnone => exec_next_of_body hr (scanFindBody_of_eof (scanEnd_eq_eof hnone))

/-- Settles O48: the loop stops at its first match, which is truncated there. -/
theorem scanOfATruncatedPreamble : Obligations.ScanOfATruncatedPreamble := by
  intro s q m hr hpos hend hshort hq hfirst
  have htrunc : scanEnd s = .truncated q := by
    rw [scanEnd_eq_of_first_preamble hpos hend hq hfirst, if_pos hshort]
  have hbody : bodyOf .scanFind s = .error (.raised .readError q) := scanFindBody_of_truncated htrunc
  exact exec_raised_of_body hr hbody

/-! ## The size of an extraction (R281) -/

theorem ceilDiv_le {b : Nat} (a : Nat) (hb : 0 < b) : ceilDiv a b ≤ a := by
  have hab : a ≤ b * a := Nat.le_mul_of_pos_left a hb
  have hlt : a + b - 1 < b * (a + 1) := by
    rw [Nat.mul_succ]
    omega
  exact Nat.le_of_lt_succ (Nat.div_lt_of_lt_mul hlt)

theorem extractWords_of_mode {sc : ScanRegs} {m : DataMode} (hm : sc.mode = some m) :
    extractWords sc = (sc.pd.toNat + m.bits - 1) / m.bits := by
  rw [extractWords, hm, modeCode, ceilDiv]

/-- SC_PD has 24 bits, and under a mode it counts at least as many bits as there are containers. -/
theorem extractWords_lt {sc : ScanRegs} {m : DataMode} (hm : sc.mode = some m) : extractWords sc < 2 ^ 24 := by
  rw [extractWords, hm]
  exact Nat.lt_of_le_of_lt (ceilDiv_le _ (bits_pos m)) sc.pd.isLt

/-! ## The registers and PAYOUT after an extraction (R280, R283) -/

section Extraction

variable (s : State) {nw : Nat}

theorem length_extractBurst_payout : (extractBurst s nw).payout.length = s.payout.length + nw := by simp

theorem take_extractBurst_payout : (extractBurst s nw).payout.take s.payout.length = s.payout := by simp

theorem getElem?_extractBurst_payout {j : Nat} (hj : j < nw) :
    (extractBurst s nw).payout[s.payout.length + j]? = some (s.pcm.read (s.strm.pcmPos.toNat + j)) := by
  rw [extractBurst_payout, List.getElem?_append_right (Nat.le_add_right _ _), Nat.add_sub_cancel_left,
    Memory.getElem?_readList, if_pos hj]

theorem extractBurst_pcmPos_toNat (h : s.strm.pcmPos.toNat + nw ≤ s.strm.pcmLen.toNat) :
    (extractBurst s nw).strm.pcmPos.toNat = s.strm.pcmPos.toNat + nw :=
  Nat.mod_eq_of_lt (Nat.lt_of_le_of_lt h s.strm.pcmLen.isLt)

theorem extractBurst_decWords_toNat (h : nw < 2 ^ 24) : (extractBurst s nw).sc.decWords.toNat = nw :=
  Nat.mod_eq_of_lt (by omega)

/-- CFG_CW has six bits, so that a container counts at most seven bytes. -/
theorem extractBurst_decBytes_toNat (h : nw < 2 ^ 24) :
    (extractBurst s nw).sc.decBytes.toNat = nw * (s.conf.cw.toNat / 8) := by
  have hcw : s.conf.cw.toNat / 8 ≤ 7 := by
    have := s.conf.cw.isLt
    omega
  have hle : nw * (s.conf.cw.toNat / 8) ≤ nw * 7 := Nat.mul_le_mul_left nw hcw
  exact Nat.mod_eq_of_lt (by omega)

end Extraction

/-! ## BURST.DEC under a lock (R281, R282) -/

section BurstDec

variable {s : State} (hr : Running s) (hl : s.sc.locked = true)

include hr hl

theorem exec_burstDec_extracts (h : s.strm.pcmPos.toNat + extractWords s.sc ≤ s.strm.pcmLen.toNat) :
    exec .burstDec s = .next (extractBurst s (extractWords s.sc)) := by
  have hbody : bodyOf .burstDec s = .ok (extractBurst s (extractWords s.sc)) := by
    rw [bodyOf, burstDecBody, if_neg (by simp [hl]), if_neg (Nat.not_lt.2 h)]
  exact exec_next_of_body hr hbody

theorem exec_burstDec_readError (h : s.strm.pcmLen.toNat < s.strm.pcmPos.toNat + extractWords s.sc) :
    exec .burstDec s = .next (raisedState s 1 s.strm.pcmPos.toNat) := by
  have hbody : bodyOf .burstDec s = .error (.raised .readError s.strm.pcmPos.toNat) := by
    rw [bodyOf, burstDecBody, if_neg (by simp [hl]), if_pos h]
  exact exec_raised_of_body hr hbody

end BurstDec

/-- Settles O49: the extraction register by register where the stream holds it, the raise where it does not. -/
theorem burstDecExtractsThePayload : Obligations.BurstDecExtractsThePayload := by
  intro s m hr hl hm pos nw
  have hnw : nw = extractWords s.sc := (extractWords_of_mode hm).symm
  have hlt : nw < 2 ^ 24 := hnw ▸ extractWords_lt hm
  refine ⟨fun hfits => ⟨extractBurst s nw, ?next, rfl, length_extractBurst_payout s, take_extractBurst_payout s,
    fun _ => getElem?_extractBurst_payout s, extractBurst_pcmPos_toNat s hfits, extractBurst_decWords_toNat s hlt,
    extractBurst_decBytes_toNat s hlt⟩, fun hshort => ?short⟩
  case next =>
    rw [hnw] at hfits ⊢
    exact exec_burstDec_extracts hr hl hfits
  case short =>
    rw [hnw] at hshort
    exact exec_burstDec_readError hr hl hshort

end Sys2Proof.Laws

/-!
CSR.RD and CSR.WR (48_system.md): what both do with a number that no register has (R304), and what CSR.WR stores in each
of the six writable registers (R307).
-/

namespace Sys2Proof.Laws

open Sys2Proof.Machine

/-! ## Numbers that no register has (R304) -/

/-- The bits of the two parts of the info are disjoint, so that R304's `|` is a sum. -/
theorem unknownRegInfo_eq_add (a : Word32) : unknownRegInfo a = 0x10000 + a.toNat % 2 ^ 16 := by
  have hmod : a.toNat &&& 0xFFFF = a.toNat % 2 ^ 16 := Nat.and_two_pow_sub_one_eq_mod a.toNat 16
  have hor : 2 ^ 16 + a.toNat % 2 ^ 16 = 2 ^ 16 ||| a.toNat % 2 ^ 16 :=
    Nat.two_pow_add_eq_or_of_lt (Nat.mod_lt _ (Nat.two_pow_pos 16)) 1
  rw [unknownRegInfo, hmod]
  exact hor.symm

section UnknownNumber

variable {s : State} {a : Word32} (ha : Reg.ofNumber a.toNat = none)

include ha

/-- Without a latched fault both operations raise IllegalOp. -/
theorem exec_csr_unknown_running (hr : Running s) (b : Word32) :
    exec (.csrRd a) s = .next (raisedState s 10 (unknownRegInfo a)) ∧
      exec (.csrWr a b) s = .next (raisedState s 10 (unknownRegInfo a)) :=
  ⟨exec_raised_of_body hr (kind := .illegalOp) (by simp only [bodyOf, ha]),
    exec_raised_of_body hr (kind := .illegalOp) (by simp only [bodyOf, csrWrBody, ha])⟩

theorem exec_csrRd_unknown_latched (hf : s.faultFlag = true) : exec (.csrRd a) s = .next s.noOp := by
  simp only [exec, execCsrRd, ha]
  exact runOp_latched hf

end UnknownNumber

/-- Settles O11: the bound on the numbers, the raises without a fault, and CSR.RD as a no-op under one. -/
theorem unknownRegisterNumbers : Obligations.UnknownRegisterNumbers := by
  refine ⟨number_lt, fun s a b hno => ?_⟩
  have ha : Reg.ofNumber a.toNat = none := ofNumber_eq_none.2 hno
  rw [← unknownRegInfo_eq_add]
  exact ⟨fun hr => exec_csr_unknown_running ha hr b, exec_csrRd_unknown_latched ha⟩

/-! ## The value CSR.WR stores (R306, R307) -/

/-- The converse of `writeProblem_none`: R306 admits the value of a register whose own test it passes. -/
theorem writeProblem_eq_none {s : State} {r : Reg} {b : Word32} (hcw : r = .cfgCw → b = 16 ∨ b = 24 ∨ b = 32)
    (hes : r = .esPos → b.toNat % 2 = 0 ∧ b.toNat ≤ s.strm.esLen.toNat)
    (hpcm : r = .pcmPos → b.toNat ≤ s.strm.pcmLen.toNat) : writeProblem s r b = none := by
  have hno_cw : ¬(r = .cfgCw ∧ cwAdmitted b = false) := by
    rintro ⟨hreg, hbad⟩
    rcases hcw hreg with rfl | rfl | rfl <;> cases hbad
  have hno_es : ¬(r = .esPos ∧ (b.toNat % 2 = 1 ∨ s.strm.esLen.toNat < b.toNat)) := by
    rintro ⟨hreg, hbad⟩
    have := hes hreg
    omega
  have hno_pcm : ¬(r = .pcmPos ∧ s.strm.pcmLen.toNat < b.toNat) := fun ⟨hreg, hbad⟩ =>
    Nat.not_lt.2 (hpcm hreg) hbad
  rw [writeProblem, if_neg hno_cw, if_neg hno_es, if_neg hno_pcm]

/-- CSR.WR of a writable register commits the write where the tests on the value leave it through. -/
theorem exec_csrWr_writes {s : State} {r : Reg} {reg b : Word32} (hr : Running s) (hreg : r.number = reg.toNat)
    (hw : r.writable = true) (hp : writeProblem s r b = none) :
    exec (.csrWr reg b) s = .next { s.writeReg r b with result := 0 } :=
  exec_next_of_body hr (by simp [bodyOf, csrWrBody, ← hreg, ofNumber_number, hw, hp])

theorem getLsbD_zero_eq_decide (b : Word32) : b.getLsbD 0 = decide (b.toNat % 2 = 1) := Nat.testBit_zero b.toNat

theorem setWidth_three_eq_ofNat_mod (b : Word32) : b.setWidth 3 = BitVec.ofNat 3 (b.toNat % 8) :=
  BitVec.eq_of_toNat_eq (by simp)

/-- Settles O12: each write passes the tests of R306, and stores the bits that the register keeps. -/
theorem csrWrStoresTheValue : Obligations.CsrWrStoresTheValue := by
  intro s b hr
  refine ⟨?alt, ?streamNum, fun hcw => ?cw, fun heven hle => ?esPos, fun hle => ?pcmPos, ?deIndex⟩
  case alt =>
    rw [← getLsbD_zero_eq_decide]
    exact exec_csrWr_writes hr (r := .cfgAlt) rfl rfl (writeProblem_eq_none nofun nofun nofun)
  case streamNum =>
    rw [← setWidth_three_eq_ofNat_mod]
    exact exec_csrWr_writes hr (r := .cfgStreamnum) rfl rfl (writeProblem_eq_none nofun nofun nofun)
  case cw =>
    rw [BitVec.ofNat_toNat]
    exact exec_csrWr_writes hr (r := .cfgCw) rfl rfl (writeProblem_eq_none (fun _ => hcw) nofun nofun)
  case esPos =>
    exact exec_csrWr_writes hr (r := .esPos) rfl rfl (writeProblem_eq_none nofun (fun _ => ⟨heven, hle⟩) nofun)
  case pcmPos =>
    exact exec_csrWr_writes hr (r := .pcmPos) rfl rfl (writeProblem_eq_none nofun nofun (fun _ => hle))
  case deIndex =>
    exact exec_csrWr_writes hr (r := .deIndex) rfl rfl (writeProblem_eq_none nofun nofun nofun)

end Sys2Proof.Laws

/-!
The errors of R321: which kinds each operation raises, and that nothing but a raise latches the fault, so that the state
an operation leaves with the fault latched is the old one but for FAULT, ERRCODE, ERRINFO and the result (R325 of
60_exceptions.md).
-/

namespace Sys2Proof.Laws

open Sys2Proof.Machine

/-! ## The codes a computation can raise -/

/-- What the computation raises, if it raises, has one of these codes. -/
structure RaisesOnly {α : Type} (codes : List (BitVec 8)) (r : Except Exit α) : Prop where
  code_mem : ∀ {kind : ErrKind} {info : Nat}, r = .error (.raised kind info) → kind.code ∈ codes

namespace RaisesOnly

variable {α β : Type} {codes codes' : List (BitVec 8)} {x y : Except Exit α}

protected theorem ok (a : α) : RaisesOnly codes (.ok a) := ⟨nofun⟩

theorem refused (why : Refusal) : RaisesOnly (α := α) codes (.error (.refused why)) := ⟨nofun⟩

theorem faulted (why : Fault) : RaisesOnly (α := α) codes (.error (.faulted why)) := ⟨nofun⟩

theorem raised {kind : ErrKind} {info : Nat} (h : codes.contains kind.code = true) :
    RaisesOnly (α := α) codes (.error (.raised kind info)) := by
  constructor
  rintro _ _ ⟨⟩
  exact List.contains_iff_mem.1 h

/-- A test between two computations. -/
protected theorem ite {p : Prop} [Decidable p] (hx : RaisesOnly codes x) (hy : RaisesOnly codes y) :
    RaisesOnly codes (if p then x else y) := by
  split
  · exact hx
  · exact hy

theorem mono (hsub : codes.all codes'.contains = true) (hx : RaisesOnly codes x) : RaisesOnly codes' x :=
  ⟨fun he => List.contains_iff_mem.1 (List.all_eq_true.1 hsub _ (hx.code_mem he))⟩

/-- An error that the computation around it hands on. -/
protected theorem error {e : Exit} (hsub : codes.all codes'.contains = true) (hx : RaisesOnly codes x)
    (he : x = .error e) : RaisesOnly (α := β) codes' (.error e) := by
  constructor
  rintro kind info ⟨⟩
  exact (hx.mono hsub).code_mem he

protected theorem bind {f : α → Except Exit β} (hx : RaisesOnly codes x) (hf : ∀ a, RaisesOnly codes (f a)) :
    RaisesOnly codes (x >>= f) := by
  cases x with
  | ok a => exact hf a
  | error e => exact ⟨by rintro kind info ⟨⟩; exact hx.code_mem rfl⟩

end RaisesOnly

/-! ## Bodies that raise in their own tests alone -/

/-- The one error among the tests on a value is CFG_CW's; the cursors' tests refuse (R306). -/
theorem writeProblem_raised_configError {s : State} {r : Reg} {b : Word32} {kind : ErrKind} {info : Nat}
    (h : writeProblem s r b = some (.raised kind info)) : kind = .configError := by
  unfold writeProblem at h
  split_ifs at h <;> cases h
  rfl

theorem csrWrBody_raisesOnly (reg value : Word32) (s : State) : RaisesOnly [9, 10] (csrWrBody reg value s) := by
  unfold csrWrBody
  split
  · exact .raised rfl
  · refine .ite (.raised rfl) ?_
    split
    case h_1 e hp =>
      constructor
      rintro kind info ⟨⟩
      rw [writeProblem_raised_configError hp]
      decide
    case h_2 => exact .ok _

theorem buInitBody_raisesOnly (depth len : Word32) (s : State) : RaisesOnly [] (buInitBody depth len s) := by
  unfold buInitBody
  split
  · exact .refused _
  · exact .ite (.refused _) (.ok _)

theorem buUnpackBody_raisesOnly (numitems numbits : Word32) (s : State) :
    RaisesOnly [1] (buUnpackBody numitems numbits s) := by
  unfold buUnpackBody
  split
  · exact .refused _
  · refine .ite (.refused _) (.ite (.refused _) (.ite (.faulted _) ?_))
    split
    · exact .raised rfl
    · exact .ok _

theorem buUnkeyBody_raisesOnly (key numItems : Word32) (s : State) : RaisesOnly [1] (buUnkeyBody key numItems s) := by
  unfold buUnkeyBody
  split
  · exact .refused _
  · refine .ite (.faulted _) ?_
    split
    · exact .raised rfl
    · exact .ok _

theorem fsOfferBody_raisesOnly (s : State) : RaisesOnly [7] (fsOfferBody s) :=
  .ite (.refused _) (.ite (.refused _) (.ite (.refused _) (.ite (.ok _) (.ite (.raised rfl) (.ite (.faulted _)
    (.ite (.faulted _) (.ok _)))))))

theorem burstEncBody_raisesOnly (s : State) : RaisesOnly [7] (burstEncBody s) := by
  unfold burstEncBody
  split
  · exact .refused _
  · exact .ite (.raised rfl) (.ite (.raised rfl) (.ite (.faulted _) (.ok _)))

theorem burstEncaltBody_raisesOnly (s : State) : RaisesOnly [7, 9] (burstEncaltBody s) := by
  unfold burstEncaltBody
  split
  · exact .refused _
  · refine .ite (.raised rfl) ?_
    split
    · exact .faulted _
    · exact .ite (.raised rfl) (.ite (.raised rfl) (.ite (.faulted _) (.ok _)))

theorem burstEncdeBody_raisesOnly (len depth : Word32) (s : State) :
    RaisesOnly [1, 7, 9] (burstEncdeBody len depth s) := by
  unfold burstEncdeBody
  split
  · exact .refused _
  · exact .ite (.refused _) (.ite (.refused _) (.ite (.raised rfl) (.ite (.raised rfl) (.ite (.raised rfl)
      (.ite (.raised rfl) (.ok _))))))

theorem scanFindBody_raisesOnly (s : State) : RaisesOnly [1] (scanFindBody s) := by
  unfold scanFindBody
  dsimp only
  split
  · exact .ok _
  · exact .raised rfl
  · exact .ok _

theorem burstDecBody_raisesOnly (s : State) : RaisesOnly [1] (burstDecBody s) :=
  .ite (.refused _) (.ite (.raised rfl) (.ok _))

/-! ## BSZ.SIZE (R202) -/

theorem sizeForDolbyE_raisesOnly (c : Cfg) (frc i : Nat) : RaisesOnly [9] (sizeForDolbyE c frc i) := by
  unfold sizeForDolbyE
  refine .ite (.ok _) (.ite ?_ (.raised rfl))
  split
  · exact .ok _
  · exact .faulted _

theorem sizeFor_raisesOnly (c : Cfg) (format frc i : Nat) : RaisesOnly [9] (sizeFor c format frc i) := by
  unfold sizeFor
  split
  · exact .ok _
  · exact .ok _
  · exact sizeForDolbyE_raisesOnly c frc i
  · exact .raised rfl
  · exact .raised rfl

theorem bszSizeBody_raisesOnly (format frc frameIndex : Word32) (s : State) :
    RaisesOnly [9] (bszSizeBody format frc frameIndex s) := by
  unfold bszSizeBody
  split
  · rename_i he
    exact (sizeFor_raisesOnly ..).error rfl he
  · exact .ok _

/-! ## DE.PARSE: every failing step is ReadError (R188) -/

theorem deUnpack_raisesOnly (m : DataMode) (items width : Nat) (u : Unpacker) :
    RaisesOnly [1] (deUnpack m items width u) := by
  unfold deUnpack
  split
  · exact .ok _
  · exact .raised rfl

theorem deField_raisesOnly (m : DataMode) (width : Nat) (u : Unpacker) : RaisesOnly [1] (deField m width u) := by
  unfold deField
  split
  · exact .ok _
  · rename_i he
    exact (deUnpack_raisesOnly ..).error rfl he

theorem deFieldIf_raisesOnly (present : Bool) (m : DataMode) (width : Nat) (u : Unpacker) :
    RaisesOnly [1] (deFieldIf present m width u) :=
  .ite (deField_raisesOnly ..) (.ok _)

theorem deUnkeyIf_raisesOnly (present : Bool) (m : DataMode) (key items : Nat) (u : Unpacker) :
    RaisesOnly [1] (deUnkeyIf present m key items u) := by
  unfold deUnkeyIf
  refine .ite ?_ (.ok _)
  split
  · exact .ok _
  · exact .raised rfl

/-- The steps of R182 in their order. -/
theorem deSequence_raisesOnly (m : DataMode) (u : Unpacker) : RaisesOnly [1] (deSequence m u) :=
  (deUnpack_raisesOnly ..).bind fun _ => (deField_raisesOnly ..).bind fun _ => (deField_raisesOnly ..).bind fun _ =>
  (deFieldIf_raisesOnly ..).bind fun _ => (deUnkeyIf_raisesOnly ..).bind fun _ => (deField_raisesOnly ..).bind fun _ =>
  (deField_raisesOnly ..).bind fun _ => (deUnkeyIf_raisesOnly ..).bind fun _ => (deField_raisesOnly ..).bind fun _ =>
  (deField_raisesOnly ..).bind fun _ => .ok _

theorem deParseBody_raisesOnly (len depth : Word32) (s : State) : RaisesOnly [1] (deParseBody len depth s) := by
  unfold deParseBody
  split
  · exact .refused _
  · refine .ite (.refused _) ?_
    split
    · rename_i he
      exact (deSequence_raisesOnly ..).error rfl he
    · exact .ok _

/-! ## HDR.PARSE and HDR.PEEK (R154, R161 to R166) -/

theorem kindOf_raisesOnly (bsid : Nat) : RaisesOnly [5] (kindOf bsid) := .ite (.ok _) (.ite (.ok _) (.raised rfl))

theorem ac3Size_raisesOnly (c : Cfg) (fscod frmsizecod : Nat) : RaisesOnly [3, 4] (ac3Size c fscod frmsizecod) := by
  unfold ac3Size
  refine .ite (.raised rfl) (.ite (.raised rfl) ?_)
  split
  · exact .ok _
  · exact .faulted _

theorem decodeAc3_raisesOnly (c : Cfg) (h : List Word16) (rev : Bool) (bsid : Nat) :
    RaisesOnly [3, 4] (decodeAc3 c h rev bsid) := by
  unfold decodeAc3
  dsimp only
  split
  · rename_i he
    exact (ac3Size_raisesOnly ..).error rfl he
  · exact .ok _

/-- The decoder raises the header's errors: the two rates, the bsid, and the configuration (R159 to R166). -/
theorem decodeHeader_raisesOnly (c : Cfg) (alt : Bool) (h : List Word16) (rev : Bool) :
    RaisesOnly [3, 4, 5, 9] (decodeHeader c alt h rev) := by
  have hwords : ∀ hd, RaisesOnly [3, 4, 5, 9] (checkFrameWords hd) := fun hd => .ite (.raised rfl) (.ok _)
  unfold decodeHeader
  dsimp only
  split
  · rename_i he
    exact (kindOf_raisesOnly _).error rfl he
  · split
    · rename_i he
      exact (decodeAc3_raisesOnly ..).error rfl he
    · exact hwords _
  · exact .ite (.raised rfl) (hwords _)

/-- A pass raises what the decoder raises, and the errors of a record: ReadError and SyncError (R153 to R157). -/
theorem parsePass_raisesOnly (s : State) (justinfo : Bool) (v : ParseVars) :
    RaisesOnly [1, 2, 3, 4, 5, 9] (parsePass s justinfo v) := by
  have htc : RaisesOnly [1, 2, 3, 4, 5, 9] (passTc s v) := .ite (.ok _) (.ite (.raised rfl) (.ok _))
  have haudio : ∀ rev, RaisesOnly [1, 2, 3, 4, 5, 9] (passAudio s justinfo rev v) := by
    intro rev
    unfold passAudio
    refine .ite (.ok _) (.ite (.raised rfl) ?_)
    split
    · rename_i he
      exact (decodeHeader_raisesOnly ..).error rfl he
    · exact .ite (.ok _) (.ite (.raised rfl) (.ok _))
  unfold parsePass
  refine .ite (.ite (.ok _) (.ok _)) (.ite (.raised rfl) ?_)
  split
  · exact htc
  · exact haudio false
  · exact haudio true
  · exact .raised rfl

theorem parseLoop_raisesOnly (s : State) (justinfo : Bool) :
    ∀ (k : Nat) (v : ParseVars), RaisesOnly [1, 2, 3, 4, 5, 9] (parseLoop s justinfo k v)
  | 0, _ => .ok _
  | k + 1, v => by
    rw [parseLoop]
    split
    · rename_i he
      exact (parsePass_raisesOnly ..).error rfl he
    · exact .ok _
    · exact .ok _
    · exact parseLoop_raisesOnly s justinfo k _

theorem commitParse_raisesOnly (s : State) (justinfo : Bool) (v : ParseVars) :
    RaisesOnly [] (commitParse s justinfo v) := by
  unfold commitParse
  dsimp only
  split
  · exact .ok _
  · exact .ite (.ok _) (.ite (.faulted _) (.ok _))

theorem hdrBody_raisesOnly (justinfo : Bool) (s : State) : RaisesOnly [1, 2, 3, 4, 5, 9] (hdrBody justinfo s) := by
  unfold hdrBody
  split
  · rename_i he
    exact (parseLoop_raisesOnly ..).error rfl he
  · exact .ok _
  · exact (commitParse_raisesOnly ..).mono rfl

/-! ## Every operation -/

/-- No operation raises a kind that the table of R321 does not list for it. -/
theorem bodyOf_raisesOnly (i : Instr) (s : State) : RaisesOnly (errCodesOf i) (bodyOf i s) := by
  cases i with
  | sysReset | fsFlush | fsClear => exact .ok _
  | csrRd reg =>
    unfold bodyOf
    dsimp only
    split
    · exact .ok _
    · exact .raised (codes := [10]) rfl
  | csrWr reg value => exact csrWrBody_raisesOnly reg value s
  | buInit depth len => exact buInitBody_raisesOnly depth len s
  | buUnpack numitems numbits => exact buUnpackBody_raisesOnly numitems numbits s
  | buUnkey key numItems => exact buUnkeyBody_raisesOnly key numItems s
  | deParse len depth => exact deParseBody_raisesOnly len depth s
  | hdrParse => exact hdrBody_raisesOnly false s
  | hdrPeek => exact hdrBody_raisesOnly true s
  | bszSize format frc frameIndex => exact bszSizeBody_raisesOnly format frc frameIndex s
  | fsOffer => exact fsOfferBody_raisesOnly s
  | burstEnc => exact burstEncBody_raisesOnly s
  | burstEncalt => exact burstEncaltBody_raisesOnly s
  | burstEncde len depth => exact burstEncdeBody_raisesOnly len depth s
  | scanFind => exact scanFindBody_raisesOnly s
  | burstDec => exact burstDecBody_raisesOnly s

/-! ## What is committed has the fault flag of before -/

@[simp] theorem writeReg_stat (s : State) (r : Reg) (b : Word32) : (s.writeReg r b).stat = s.stat := by cases r <;> rfl

@[simp] theorem faultFlag_deWarn (m : DataMode) (f : DeFields) (s : State) :
    (deWarn m f s).faultFlag = s.faultFlag := by
  rcases deWarn_cases m f s with h | h <;> simp [h]

theorem faultFlag_enterReset (s : State) : s.enterReset.faultFlag = false := by
  simp [State.faultFlag, StatRegs.reset]

/-- No commit but the reset writes the FAULT bit. -/
theorem bodyOf_keeps_faultFlag {i : Instr} {s t : State} (hi : i ≠ .sysReset) (h : bodyOf i s = .ok t) :
    t.faultFlag = s.faultFlag := by
  cases i with
  | sysReset => exact absurd rfl hi
  | csrRd reg =>
    simp only [bodyOf] at h
    split at h <;> cases h
    rfl
  | csrWr reg value => obtain ⟨r, -, -, -, rfl⟩ := csrWrBody_ok h; exact faultFlag_congr (writeReg_stat s r value)
  | buInit depth len => obtain ⟨m, -, -, rfl⟩ := buInitBody_ok h; rfl
  | buUnpack numitems numbits => obtain ⟨m, out, u, -, -, -, -, -, rfl⟩ := buUnpackBody_ok h; rfl
  | buUnkey key numItems => obtain ⟨m, u, -, -, rfl⟩ := buUnkeyBody_ok h; rfl
  | deParse len depth => obtain ⟨m, f, u, -, -, -, rfl⟩ := deParseBody_ok h; exact faultFlag_deWarn m f _
  | hdrParse | hdrPeek =>
    rcases hdrBody_ok h with ⟨-, rfl⟩ | ⟨v, -, ⟨-, rfl⟩ | ⟨f, -, -, rfl⟩ | ⟨f, -, -, -, rfl⟩⟩ <;>
      exact faultFlag_setEof s _
  | bszSize format frc frameIndex => obtain ⟨size, -, rfl⟩ := bszSizeBody_ok h; rfl
  | fsOffer => obtain ⟨-, -, -, -, ⟨-, rfl⟩ | ⟨-, -, -, -, rfl⟩⟩ := fsOfferBody_ok h <;> rfl
  | fsFlush | fsClear => cases h; rfl
  | burstEnc => obtain ⟨-, -, -, -, -, rfl⟩ := burstEncBody_ok h; rfl
  | burstEncalt => obtain ⟨-, -, -, T, -, -, -, -, -, rfl⟩ := burstEncaltBody_ok h; rfl
  | burstEncde len depth => obtain ⟨m, -, -, -, -, -, -, -, -, rfl⟩ := burstEncdeBody_ok h; rfl
  | scanFind => rcases scanFindBody_ok h with rfl | ⟨p, m, -, rfl⟩ <;> exact faultFlag_setEof s _
  | burstDec => obtain ⟨-, -, rfl⟩ := burstDecBody_ok h; rfl

/-- An operation that latches the fault raised: reset, a result alone and a commit do not latch it. -/
theorem exec_latches {i : Instr} {s t : State} (hr : Running s) (h : exec i s = .next t) (hf : t.faultFlag = true) :
    ∃ kind info, bodyOf i s = .error (.raised kind info) ∧ t = s.raise kind info := by
  have hnot : ¬ t.faultFlag = s.faultFlag := by simp [hf, hr]
  rcases exec_next h with ⟨rfl, -⟩ | ⟨v, rfl⟩ | ⟨-, hi, hb⟩ | ⟨-, hraised⟩
  · exact absurd ((faultFlag_enterReset s).trans hr.symm) hnot
  · exact absurd rfl hnot
  · exact absurd (bodyOf_keeps_faultFlag hi hb) hnot
  · exact hraised

/-- Settles O6: what latched the fault is a raise, and its kind is one that the operation's body raises. -/
theorem raisingCommitsNothing : Obligations.RaisingCommitsNothing := by
  intro i s t hr h hf
  obtain ⟨kind, info, hb, rfl⟩ := exec_latches hr h hf
  exact ⟨info, raise_eq_raisedState s kind info, (bodyOf_raisesOnly i s).code_mem hb⟩

end Sys2Proof.Laws

/-!
Command words and the operations they decode to (30_encoding.md Part B): assembling and decoding, what a step does with the
command it takes, and what is left of it while the fault is latched (R327 of 60_exceptions.md).
-/

namespace Sys2Proof.Laws

open Sys2Proof.Machine

/-! ## Decoding an assembled word (R110, R111) -/

/-- The decoder reads back the fields of an assembled word; its answer depends on these alone. -/
theorem decode_cmdWord_eq_ok {op : BitVec 8} {a b c : Word32} {i : Instr}
    (h : ∀ w, cmdOp w = op → cmdA w = a → cmdB w = b → cmdC w = c → decode w = .ok i) :
    decode (cmdWord op a b c) = .ok i :=
  h _ (cmdOp_cmdWord ..) (cmdA_cmdWord ..) (cmdB_cmdWord ..) (cmdC_cmdWord ..)

/-- Settles O2: in each row of R111 the op field selects the row's own arm, and the operands are the fields. -/
theorem decodeInvertsEncode : Obligations.DecodeInvertsEncode := by
  intro i
  cases i <;>
  · refine decode_cmdWord_eq_ok fun w hop ha hb hc => ?_
    simp [decode, hop, ha, hb, hc]

/-- The op field of a word that decodes is the code of the operation's row (R111). -/
theorem cmdOp_eq_opCode {w : CmdWord} {i : Instr} (h : decode w = .ok i) : cmdOp w = opCode i := by
  unfold decode at h
  split at h <;> cases h
  all_goals
    rename_i hop
    exact BitVec.eq_of_toNat_eq hop

/-- Settles O1: the fields of each word are the row's op value and the operands of its operation. -/
theorem specCommandWordsDecode : Obligations.SpecCommandWordsDecode := by
  unfold Obligations.SpecCommandWordsDecode
  decide

/-! ## A step (R6, R110) -/

theorem step_of_decode {s : State} {w : CmdWord} {rest : List CmdWord} {i : Instr} (hp : s.port = w :: rest)
    (hd : decode w = .ok i) : step s = exec i { s with port := rest } := by
  simp only [step, State.takeCommand, hp, runCommand, hd]

theorem step_of_empty_port {s : State} (hp : s.port = []) : step s = .next s := by
  simp only [step, State.takeCommand, hp]

/-- Settles O4: the step takes the head of the port, and waits where there is none. -/
theorem stepRunsTheDecodedCommand : Obligations.StepRunsTheDecodedCommand :=
  ⟨fun _ _ _ _ hp hd => step_of_decode hp hd, fun _ hp => step_of_empty_port hp⟩

/-! ## Commands while the fault is latched (R327) -/

theorem decode_of_op_sysReset {w : CmdWord} (h : cmdOp w = 0x01) : decode w = .ok .sysReset := by
  simp [decode, h]

theorem decode_of_op_csrRd {w : CmdWord} (h : cmdOp w = 0x02) : decode w = .ok (.csrRd (cmdA w)) := by
  simp [decode, h]

/-- CSR.RD of a register's number (R303). -/
theorem exec_csrRd_known {a : Word32} {r : Reg} (h : r.number = a.toNat) (s : State) :
    exec (.csrRd a) s = .next { s with result := s.readReg r } := by
  simp only [exec, execCsrRd, ← h, ofNumber_number]

/-- Under a latched fault CSR.RD gives the register its operand names, else 0. -/
theorem exec_csrRd_latched {s : State} (hf : s.faultFlag = true) (a : Word32) :
    ∃ v : Word32, exec (.csrRd a) s = .next { s with result := v } ∧
      (∀ r : Reg, r.number = a.toNat → v = BitVec.ofNat 32 (s.regValue r)) ∧
      ((∀ r : Reg, r.number ≠ a.toNat) → v = 0) := by
  cases hn : Reg.ofNumber a.toNat with
  | some r =>
    have hr : r.number = a.toNat := ofNumber_eq_some.1 hn
    refine ⟨s.readReg r, exec_csrRd_known hr s, fun r' hr' => ?_, fun hno => absurd hr (hno r)⟩
    have hsame : r' = r := Option.some.inj (by rw [← ofNumber_eq_some.2 hr', hn])
    rw [hsame]
    rfl
  | none =>
    exact ⟨0, exec_csrRd_unknown_latched hn hf, fun r hr => absurd hr (ofNumber_eq_none.1 hn r), fun _ => rfl⟩

/-- Every word but those two does nothing but clear the result. -/
theorem step_latched_noOp {s : State} {w : CmdWord} {rest : List CmdWord} (hp : s.port = w :: rest)
    (hf : s.faultFlag = true) (h1 : cmdOp w ≠ 0x01) (h2 : cmdOp w ≠ 0x02) :
    step s = .next { s with port := rest, result := 0 } := by
  have hf' : ({ s with port := rest } : State).faultFlag = true := hf
  rcases decode_cases w with ⟨⟨i, hi⟩, -⟩ | ⟨hill, -⟩
  · have hop := cmdOp_eq_opCode hi
    have hreset : i ≠ .sysReset := by rintro rfl; exact h1 hop
    have hread : ∀ a, i ≠ .csrRd a := by rintro a rfl; exact h2 hop
    rw [step_of_decode hp hi, exec_eq_runOp hreset hread]
    exact runOp_latched hf'
  · rw [step_of_illegalOp hp hill]
    exact runOp_latched hf'

/-- Settles O5: the two operations that work under a fault, and the no-op that every other word is. -/
theorem faultedMachineIgnoresCommands : Obligations.FaultedMachineIgnoresCommands := by
  intro s w rest hp hf
  refine ⟨fun hop => ?reset, fun hop => ?read, step_latched_noOp hp hf⟩
  case reset => exact step_of_decode hp (decode_of_op_sysReset hop)
  case read =>
    rw [step_of_decode hp (decode_of_op_csrRd hop)]
    exact exec_csrRd_latched (s := { s with port := rest }) hf (cmdA w)

end Sys2Proof.Laws

/-!
The commits of all operations in one place: each next state that a body answers is the old one with named fields replaced,
so that what an operation leaves unchanged is read off by `rfl`. Every property that all steps keep is a case analysis of
`Commits`.
-/

namespace Sys2Proof.Laws

open Sys2Proof.Machine

/-- The two header operations, by the flag that tells them apart (R151, R152). -/
def hdrInstr (justinfo : Bool) : Instr := if justinfo then .hdrPeek else .hdrParse

/-- `Commits s i t`: in state `s` operation `i` can commit `t`. The hypotheses are those parts of the operation's tests that
bound what is written. -/
inductive Commits (s : State) : Instr → State → Prop where
  | sysReset : Commits s .sysReset s.enterReset
  | csrRd (reg v : Word32) : Commits s (.csrRd reg) { s with result := v }
  | csrWrConf (reg value : Word32) (conf : ConfRegs) :
      conf.cw = s.conf.cw ∨ conf.cw.toNat = 16 ∨ conf.cw.toNat = 24 ∨ conf.cw.toNat = 32 →
      Commits s (.csrWr reg value) { s with conf := conf, result := 0 }
  | csrWrEsPos (reg value : Word32) : value.toNat % 2 = 0 → value.toNat ≤ s.strm.esLen.toNat →
      Commits s (.csrWr reg value) { s with strm := { s.strm with esPos := value }, result := 0 }
  | csrWrPcmPos (reg value : Word32) : value.toNat ≤ s.strm.pcmLen.toNat →
      Commits s (.csrWr reg value) { s with strm := { s.strm with pcmPos := value }, result := 0 }
  | csrWrIndex (reg value : Word32) (n : Nat) :
      Commits s (.csrWr reg value) { s with bsz := { s.bsz with deIndex := n }, result := 0 }
  | buInit (depth len : Word32) (m : DataMode) : Commits s (.buInit depth len)
      { s with bu := (loadUnpacker s m len).bu, debuf := (loadUnpacker s m len).debuf, result := 0 }
  | buUnpack (n w : Word32) (m : DataMode) (out : List Word32) (u : Unpacker) : s.bu.depth = some m →
      unpackFn m n.toNat w.toNat { bu := s.bu, debuf := s.debuf } = some (out, u) →
      Commits s (.buUnpack n w) { s with bu := u.bu, buout := s.buout.writeList 0 out, result := out.headD 0 }
  | buUnkey (key n : Word32) (m : DataMode) (u : Unpacker) : s.bu.depth = some m →
      unkeyFn m key.toNat n.toNat { bu := s.bu, debuf := s.debuf } = some u →
      Commits s (.buUnkey key n) { s with debuf := u.debuf, result := 0 }
  | deParse (len depth : Word32) (m : DataMode) (f : DeFields) (u : Unpacker) :
      deSequence m (loadUnpacker s m len) = .ok (f, u) →
      Commits s (.deParse len depth) { s with bu := u.bu, debuf := u.debuf, de := deRegsOf m len f, result := f.frc }
  | deParseWarned (len depth : Word32) (m : DataMode) (f : DeFields) (u : Unpacker) :
      deSequence m (loadUnpacker s m len) = .ok (f, u) → Commits s (.deParse len depth)
        ({ s with bu := u.bu, debuf := u.debuf, de := deRegsOf m len f, result := f.frc } : State).warn
  | hdrEof (ji : Bool) : Commits s (hdrInstr ji) (commitEof s)
  | hdrNone (ji : Bool) (v : ParseVars) : parseLoop s ji 3 (parseStart s) = .ok (some v) → v.found = none →
      Commits s (hdrInstr ji) { commitPosition s v with
        hdr := { (commitPosition s v).hdr with valid := false, frameValid := false }, result := 0 }
  | hdrPeek (v : ParseVars) (f : Found) : parseLoop s true 3 (parseStart s) = .ok (some v) → v.found = some f →
      Commits s .hdrPeek { commitPosition s v with
        hdr := hdrRegsOf s.cfg (commitPosition s v).hdr f false, result := 1 }
  | hdrParse (v : ParseVars) (f : Found) : parseLoop s false 3 (parseStart s) = .ok (some v) → v.found = some f →
      Commits s .hdrParse { commitPosition s v with
        hdr := hdrRegsOf s.cfg (commitPosition s v).hdr f true, frame := s.frame.writeList 0 f.frame, result := 1 }
  | bszSize (format frc k size : Word32) : sizeFor s.cfg format.toNat frc.toNat (k.toNat % 5) = .ok size →
      Commits s (.bszSize format frc k) { s with bsz := { s.bsz with size := size, valid := true }, result := size }
  | fsOfferFlush : s.hdr.valid = true → Commits s .fsOffer (shortFlush s)
  | fsOfferAppend : Commits s .fsOffer (appendFrame s)
  | fsFlush : Commits s .fsFlush
      { s with fs := { s.fs with state := flushedState s.fs }, result := BitVec.ofNat 32 (flushedState s.fs).code }
  | fsClear : Commits s .fsClear { s with fs := FsRegs.reset, result := 0 }
  | burstEnc : (normalBurst s).length = s.bsz.size.toNat → Commits s .burstEnc (appendBurst s (normalBurst s) 16)
  | burstEncalt (T : Nat) : (alternateBurst s T).length = s.bsz.size.toNat →
      Commits s .burstEncalt (appendBurst s (alternateBurst s T) 16)
  | burstEncde (len depth : Word32) (m : DataMode) : (dolbyEBurst s m len.toNat).length = s.bsz.size.toNat →
      Commits s (.burstEncde len depth) (countDolbyE (appendBurst s (dolbyEBurst s m len.toNat) 32))
  | scanEof : Commits s .scanFind (scanEof s)
  | scanLock (p : Nat) (m : DataMode) :
      scanLoop s.cfg s.pcm s.strm.pcmLen.toNat (s.strm.pcmLen.toNat - s.strm.pcmPos.toNat) s.strm.pcmPos.toNat =
        .lock p m → Commits s .scanFind (scanLock s p m)
  | burstDec : s.strm.pcmPos.toNat + extractWords s.sc ≤ s.strm.pcmLen.toNat →
      Commits s .burstDec (extractBurst s (extractWords s.sc))

theorem csrWr_commits {s t : State} {reg value : Word32} (h : csrWrBody reg value s = .ok t) :
    Commits s (.csrWr reg value) t := by
  obtain ⟨r, -, hw, hp, rfl⟩ := csrWrBody_ok h
  obtain ⟨hcw, hes, hpcm⟩ := writeProblem_none hp
  cases r with
  | cfgAlt | cfgStreamnum => exact .csrWrConf reg value _ (.inl rfl)
  | cfgCw =>
    refine .csrWrConf reg value _ (.inr ?_)
    rcases hcw rfl with rfl | rfl | rfl
    exacts [.inl rfl, .inr (.inl rfl), .inr (.inr rfl)]
  | esPos => exact .csrWrEsPos reg value (hes rfl).1 (hes rfl).2
  | pcmPos => exact .csrWrPcmPos reg value (hpcm rfl)
  | deIndex => exact .csrWrIndex reg value _
  | _ => cases hw

theorem deParse_commits {s t : State} {len depth : Word32} (h : deParseBody len depth s = .ok t) :
    Commits s (.deParse len depth) t := by
  obtain ⟨m, f, u, -, -, hseq, rfl⟩ := deParseBody_ok h
  unfold deWarn
  split
  · exact .deParse len depth m f u hseq
  · exact .deParseWarned len depth m f u hseq

theorem hdr_commits {s t : State} {ji : Bool} (h : hdrBody ji s = .ok t) : Commits s (hdrInstr ji) t := by
  rcases hdrBody_ok h with ⟨-, rfl⟩ | ⟨v, hloop, ⟨hf, rfl⟩ | ⟨f, hf, rfl, rfl⟩ | ⟨f, hf, rfl, -, rfl⟩⟩
  · exact .hdrEof ji
  · exact .hdrNone ji v hloop hf
  · exact .hdrPeek v f hloop hf
  · exact .hdrParse v f hloop hf

/-- Every commit of a body is one of those. -/
theorem bodyOf_commits {i : Instr} {s t : State} (h : bodyOf i s = .ok t) : Commits s i t := by
  cases i with
  | sysReset => cases h; exact .sysReset
  | csrRd reg =>
    simp only [bodyOf] at h
    split at h <;> cases h
    exact .csrRd reg _
  | csrWr reg value => exact csrWr_commits h
  | buInit depth len => obtain ⟨m, -, -, rfl⟩ := buInitBody_ok h; exact .buInit depth len m
  | buUnpack n w => obtain ⟨m, out, u, hd, -, -, -, hu, rfl⟩ := buUnpackBody_ok h; exact .buUnpack n w m out u hd hu
  | buUnkey key n => obtain ⟨m, u, hd, hu, rfl⟩ := buUnkeyBody_ok h; exact .buUnkey key n m u hd hu
  | deParse len depth => exact deParse_commits h
  | hdrParse => exact hdr_commits (ji := false) h
  | hdrPeek => exact hdr_commits (ji := true) h
  | bszSize format frc k => obtain ⟨size, hsize, rfl⟩ := bszSizeBody_ok h; exact .bszSize format frc k size hsize
  | fsOffer =>
    obtain ⟨-, hv, -, -, ⟨-, rfl⟩ | ⟨-, -, -, -, rfl⟩⟩ := fsOfferBody_ok h
    · exact .fsOfferFlush hv
    · exact .fsOfferAppend
  | fsFlush => cases h; exact .fsFlush
  | fsClear => cases h; exact .fsClear
  | burstEnc => obtain ⟨-, -, -, -, hlen, rfl⟩ := burstEncBody_ok h; exact .burstEnc hlen
  | burstEncalt => obtain ⟨-, -, -, T, -, -, -, -, hlen, rfl⟩ := burstEncaltBody_ok h; exact .burstEncalt T hlen
  | burstEncde len depth =>
    obtain ⟨m, -, -, -, -, -, -, -, hlen, rfl⟩ := burstEncdeBody_ok h
    exact .burstEncde len depth m hlen
  | scanFind =>
    rcases scanFindBody_ok h with rfl | ⟨p, m, hlock, rfl⟩
    · exact .scanEof
    · exact .scanLock p m hlock
  | burstDec => obtain ⟨-, hin, rfl⟩ := burstDecBody_ok h; exact .burstDec hin

/-- A property that no write of the port, the result and the status registers touches, and that every commit keeps, every
step keeps. -/
theorem step_keeps_of_commits {P : State → Prop} {s t : State} (hs : P s) (h : step s = .next t)
    (hstatus : ∀ {u : State} port result stat, P u → P { u with port := port, result := result, stat := stat })
    (hcommit : ∀ {i : Instr} {u v : State}, P u → Commits u i v → P v) : P t := by
  have hport : ∀ rest, P { s with port := rest } := fun rest => hstatus rest s.result s.stat hs
  exact step_keeps h (fun port result stat => hstatus port result stat hs)
    (fun rest => hcommit (hport rest) .sysReset) fun _ rest hbody => hcommit (hport rest) (bodyOf_commits hbody)

/-- No operation writes the configuration (R20). -/
theorem Commits.keeps_cfg {i : Instr} {s t : State} (h : Commits s i t) : t.cfg = s.cfg := by cases h <;> rfl

end Sys2Proof.Laws

/-!
The random-access memories (10_state.md section 3): that every step keeps each of the seven in its canonical form
(assumption logs 6 and 7), because every write of an operation is an element or block write of `Memory`.
-/

namespace Sys2Proof.Laws

open Sys2Proof.Machine Memory

/-! ## The writes of the operations -/

/-- The reset empties the memories it does not keep (R360, R362). -/
theorem enterReset_memoriesOk {s : State} (hs : MemoriesOk s) : MemoriesOk s.enterReset where
  es := hs.es
  frame := wf_empty
  fsbuf := wf_empty
  deframe := hs.deframe
  debuf := wf_empty
  buout := wf_empty
  pcm := hs.pcm

theorem wf_loadUnpacker {s : State} (h : s.debuf.wf) (m : DataMode) (len : Word32) :
    (loadUnpacker s m len).debuf.wf := wf_writeList h 0 _

theorem wf_debuf_unpackFn {m : DataMode} {n w : Nat} {u u' : Unpacker} {out : List Word32} (hu : u.debuf.wf)
    (h : unpackFn m n w u = some (out, u')) : u'.debuf.wf := by
  obtain ⟨-, -, rfl⟩ := unpackFn_some h
  exact hu

theorem wf_debuf_unkeyFn {m : DataMode} {k n : Nat} {u u' : Unpacker} (hu : u.debuf.wf)
    (h : unkeyFn m k n u = some u') : u'.debuf.wf := by
  obtain ⟨-, rfl⟩ := unkeyFn_some h
  exact wf_xorWords hu _ _

/-- The sequence of DE.PARSE writes DEBUF by its unkey steps only (R182). -/
theorem wf_debuf_deSequence {m : DataMode} {u u' : Unpacker} {f : DeFields} (hu : u.debuf.wf)
    (h : deSequence m u = .ok (f, u')) : u'.debuf.wf :=
  deSequence_keeps (fun u => u.debuf.wf) wf_debuf_unpackFn wf_debuf_unkeyFn h hu

theorem Commits.keeps_memoriesOk {i : Instr} {s t : State} (hs : MemoriesOk s) (h : Commits s i t) : MemoriesOk t := by
  cases h with
  | sysReset => exact enterReset_memoriesOk hs
  | buInit depth len m => exact { hs with debuf := wf_loadUnpacker hs.debuf m len }
  | buUnpack n w m out u _ _ => exact { hs with buout := wf_writeList hs.buout 0 out }
  | buUnkey key n m u _ hu =>
    exact { hs with debuf := wf_debuf_unkeyFn (u := { bu := s.bu, debuf := s.debuf }) hs.debuf hu }
  | deParse len depth m f u hseq | deParseWarned len depth m f u hseq =>
    exact { hs with debuf := wf_debuf_deSequence (wf_loadUnpacker hs.debuf m len) hseq }
  | hdrParse v f _ _ => exact { hs with frame := wf_writeList hs.frame 0 f.frame }
  | fsOfferAppend => exact { hs with fsbuf := wf_writeList hs.fsbuf _ _ }
  | _ => exact { hs with }

/-- Settles O53: the reset leaves empty memories or those of before, and each commit writes by `Memory`'s own writes. -/
theorem memoriesStayCanonical : Obligations.MemoriesStayCanonical :=
  fun _ _ hs h => step_keeps_of_commits hs h (fun _ _ _ hu => { hu with }) fun hu hc => hc.keeps_memoriesOk hu

end Sys2Proof.Laws

/-!
The configuration, the header registers and the burst size: no step writes the configuration, a valid header stays one that
the decoder can give (R47, R99, R161 to R166), in registers of the widths of LAYOUT (R33), and a valid burst size stays one
of the table's (R202).
-/

namespace Sys2Proof.Laws

open Sys2Proof.Machine

/-! ## The configuration (R20) -/

theorem step_keeps_cfg {s t : State} (h : step s = .next t) : t.cfg = s.cfg :=
  step_keeps_of_commits (P := fun u => u.cfg = s.cfg) rfl h (fun _ _ _ hu => hu) fun hu hc => hc.keeps_cfg.trans hu

/-! ## What the decoder gives under a well-formed configuration -/

/-- The bounds of a header that a well-formed configuration decodes (R47, R99, R161 to R166, R250). -/
structure LegalHeader (c : Cfg) (hd : Header) : Prop where
  register : hd.frameWords < 2 ^ 16
  fits     : hd.frameWords ≤ c.frameCap
  whole    : Config.hdrWords ≤ hd.frameWords
  blocks   : blockCount hd.blocks
  ac3      : hd.kind = .ac3 → hd.blocks = 6 ∧ hd.strmtyp = .indep ∧ hd.substreamid = 0 ∧
    altPointDefined c hd.fscod hd.frmsizecod

theorem blockCount_decodeEac3 {c : Cfg} (hwf : c.wellFormed = true) (h : List Word16) (rev : Bool) (bsid : Nat) :
    blockCount (decodeEac3 c h rev bsid).blocks := by
  simp only [decodeEac3]
  split
  · exact .inr (.inr (.inr rfl))
  · exact numBlks_cases (blockCode_le hwf h)

theorem decodeHeader_legal {c : Cfg} {alt rev : Bool} {h : List Word16} {hd : Header} (hwf : c.wellFormed = true)
    (he : decodeHeader c alt h rev = .ok hd) : LegalHeader c hd := by
  have hD := decodeHeader_ok he
  cases hk : hd.kind with
  | ac3 =>
    obtain ⟨hf, hc, w, hw, hhd⟩ := decodeAc3_ok (hD.ac3 hk).2
    have hwhole := hD.whole
    rw [hhd] at hwhole ⊢
    exact ⟨w.isLt, ac3_size hwf hw, hwhole, .inr (.inr (.inr rfl)), fun _ => ⟨rfl, rfl, rfl, (tables hwf hf hc).2⟩⟩
  | eac3 =>
    obtain ⟨-, -, -, hhd⟩ := hD.eac3 hk
    have hwhole := hD.whole
    obtain ⟨hreg, hfit⟩ := eac3_size hwf h
    rw [hhd] at hwhole ⊢
    exact ⟨hreg, hfit, hwhole, blockCount_decodeEac3 hwf h rev _, nofun⟩

/-! ## The header registers -/

/-- Without a valid header the invariant asks for the widths alone. -/
theorem headerOk_of_invalid {s t : State} (hs : HeaderOk s) (hcfg : t.cfg = s.cfg) (hbsid : t.hdr.bsid = s.hdr.bsid)
    (hfscod : t.hdr.fscod = s.hdr.fscod) (hfrm : t.hdr.frmsizecod = s.hdr.frmsizecod)
    (hsub : t.hdr.substreamid = s.hdr.substreamid) (hv : t.hdr.valid = false) (hfv : t.hdr.frameValid = false) :
    HeaderOk t where
  bsidWidth := by rw [hbsid, hcfg]; exact hs.bsidWidth
  fscodWidth := by rw [hfscod, hcfg]; exact hs.fscodWidth
  frmsizecodWidth := by rw [hfrm, hcfg]; exact hs.frmsizecodWidth
  substreamidWidth := by rw [hsub, hcfg]; exact hs.substreamidWidth
  frame := by simp [hfv]
  fits := by simp [hv]
  whole := by simp [hv]
  blocks := by simp [hv]
  ac3 := by simp [hv]
  ac3Codes := by simp [hv]

/-- The registers of a decoded header are legal: none loses a bit of the header's numbers (R33, R167). -/
theorem headerOk_of_decoded {t : State} {alt rev fv : Bool} {h : List Word16} {f : Found} {r : HdrRegs}
    (hwf : t.cfg.wellFormed = true) (hd : decodeHeader t.cfg alt h rev = .ok f.hdr)
    (ht : t.hdr = hdrRegsOf t.cfg r f fv) : HeaderOk t := by
  have hlegal := decodeHeader_legal hwf hd
  obtain ⟨hbsid, hfscod, hfrm, hsub⟩ := decodeHeader_fits hd
  have hwords : (BitVec.ofNat 16 f.hdr.frameWords).toNat = f.hdr.frameWords := Nat.mod_eq_of_lt hlegal.register
  have hblocks : (BitVec.ofNat 3 f.hdr.blocks).toNat = f.hdr.blocks := by
    rcases hlegal.blocks with h | h | h | h <;> rw [h] <;> rfl
  rw [hdrRegsOf_decoded r fv hd] at ht
  refine
    { bsidWidth := by rw [ht]; exact hbsid, fscodWidth := by rw [ht]; exact hfscod
      frmsizecodWidth := by rw [ht]; exact hfrm, substreamidWidth := by rw [ht]; exact hsub
      frame := by simp [ht], fits := ?_, whole := ?_, blocks := ?_, ac3 := ?_, ac3Codes := ?_ } <;> rw [ht] <;>
    intro _
  · exact hwords.symm ▸ hlegal.fits
  · exact hwords.symm ▸ hlegal.whole
  · exact hblocks.symm ▸ hlegal.blocks
  · intro hk
    obtain ⟨hb, hst, hss, -⟩ := hlegal.ac3 hk
    exact ⟨hblocks.trans hb, hst, hss⟩
  · exact fun hk => (hlegal.ac3 hk).2.2.2

/-- Every header the loop comes to was decoded from ES (R154). -/
theorem parseLoop_decoded {s : State} {ji : Bool} {v : ParseVars} {f : Found}
    (hloop : parseLoop s ji 3 (parseStart s) = .ok (some v)) (hf : v.found = some f) :
    ∃ rev, decodeHeader s.cfg s.conf.alt (esWords s.es rev f.start Config.hdrWords) rev = .ok f.hdr := by
  obtain ⟨-, -, -, rev, hd, -⟩ := (parseLoop_parsed hloop).found f hf
  exact ⟨rev, hd⟩

theorem headerOk_congr {s t : State} (hs : HeaderOk s) (hhdr : t.hdr = s.hdr) (hcfg : t.cfg = s.cfg) : HeaderOk t := by
  constructor <;> rw [hhdr] <;> try rw [hcfg]
  exacts [hs.bsidWidth, hs.fscodWidth, hs.frmsizecodWidth, hs.substreamidWidth, hs.frame, hs.fits, hs.whole, hs.blocks,
    hs.ac3, hs.ac3Codes]

theorem enterReset_headerOk (s : State) : HeaderOk s.enterReset := by
  constructor <;> simp [HdrRegs.reset]

theorem Commits.keeps_headerOk {i : Instr} {s t : State} (hwf : s.cfg.wellFormed = true) (hs : HeaderOk s)
    (h : Commits s i t) : HeaderOk t := by
  cases h with
  | sysReset => exact enterReset_headerOk s
  | hdrEof | hdrNone | fsOfferFlush | fsOfferAppend => exact headerOk_of_invalid hs rfl rfl rfl rfl rfl rfl rfl
  | hdrPeek v f hloop hf | hdrParse v f hloop hf =>
    obtain ⟨rev, hd⟩ := parseLoop_decoded hloop hf
    exact headerOk_of_decoded hwf hd rfl
  | _ => exact headerOk_congr hs rfl rfl

/-! ## The burst size -/

theorem burstSizeOk_congr {s t : State} (hs : BurstSizeOk s)
    (h : t.bsz.size = s.bsz.size ∧ t.bsz.valid = s.bsz.valid) (hcfg : t.cfg = s.cfg) : BurstSizeOk t where
  least := by rw [h.1, h.2]; exact hs.least
  fits := by rw [h.1, h.2, hcfg]; exact hs.fits

theorem enterReset_burstSizeOk (s : State) : BurstSizeOk s.enterReset := ⟨nofun, nofun⟩

/-- Besides the reset BSZ.SIZE alone writes the two registers; CSR.WR and BURST.ENCDE write DE_INDEX (R201, R258). -/
theorem Commits.keeps_burstSizeOk {i : Instr} {s t : State} (hwf : s.cfg.wellFormed = true) (hs : BurstSizeOk s)
    (h : Commits s i t) : BurstSizeOk t := by
  cases h with
  | sysReset => exact enterReset_burstSizeOk s
  | bszSize format frc k size hsize =>
    obtain ⟨hleast, hfits⟩ := burstSize_bounds hwf (sizeFor_mem (Nat.mod_lt _ (by decide)) hsize)
    exact ⟨fun _ => hleast, fun _ => hfits⟩
  | _ => exact burstSizeOk_congr hs ⟨rfl, rfl⟩ rfl

/-- Settles O56: no step writes the configuration; the reset leaves no header and no size valid, and the bodies that write
one take it from the decoder or from the table of sizes. -/
theorem headerAndBurstSizeStayLegal : Obligations.HeaderAndBurstSizeStayLegal := by
  intro s t hwf h
  refine ⟨step_keeps_cfg h, fun hs => ?header, fun hs => ?burstSize⟩
  case header =>
    exact (step_keeps_of_commits (P := fun u => u.cfg.wellFormed = true ∧ HeaderOk u) ⟨hwf, hs⟩ h
      (fun _ _ _ hu => ⟨hu.1, headerOk_congr hu.2 rfl rfl⟩)
      fun hu hc => ⟨hc.keeps_cfg ▸ hu.1, hc.keeps_headerOk hu.1 hu.2⟩).2
  case burstSize =>
    exact (step_keeps_of_commits (P := fun u => u.cfg.wellFormed = true ∧ BurstSizeOk u) ⟨hwf, hs⟩ h
      (fun _ _ _ hu => ⟨hu.1, burstSizeOk_congr hu.2 ⟨rfl, rfl⟩ rfl⟩)
      fun hu hc => ⟨hc.keeps_cfg ▸ hu.1, hc.keeps_burstSizeOk hu.1 hu.2⟩).2

end Sys2Proof.Laws

/-!
The status registers, the cursors and the outputs: which bits of STATUS an operation can change (R28, R331), that the cursors
move forward but for the rewind (R78), that the outputs are appended to (R51, R260), and that every step keeps the output
lengths, the container width, the fault latch and the lock consistent (R25, R29, R30, R276).
-/

namespace Sys2Proof.Laws

open Sys2Proof.Machine

/-- What an operation other than SYS.RESET leaves: the old state with another result and status, or a commit. -/
theorem exec_keeps_of_commits {P : State → Prop} {i : Instr} {s t : State} (h : exec i s = .next t)
    (hi : i ≠ .sysReset) (hstatus : ∀ result stat, P { s with result := result, stat := stat })
    (hcommit : Commits s i t → P t) : P t := by
  rcases exec_next h with ⟨-, hreset⟩ | ⟨v, rfl⟩ | ⟨-, -, hbody⟩ | ⟨-, k, info, -, rfl⟩
  · exact absurd hreset hi
  · exact hstatus v s.stat
  · exact hcommit (bodyOf_commits hbody)
  · exact hstatus 0 _

/-- An operation that ends without the fault latched, and did not start so, committed. -/
theorem bodyOf_ok_of_running {i : Instr} {s t : State} (h : exec i s = .next t) (hr : Running s) (hrt : Running t) :
    bodyOf i s = .ok t := by
  rw [exec_running hr] at h
  rcases finish_next h with hbody | ⟨k, info, -, rfl⟩
  · exact hbody
  · exact absurd ((faultFlag_raise s k info).symm.trans hrt) nofun

/-! ## The bits of STATUS (R28) -/

/-- The operations that write STATUS.EOF (R153, R167, R271, R272). -/
def writesEof : Instr → Bool
  | .hdrParse | .hdrPeek | .scanFind => true
  | _ => false

/-- A commit leaves the status registers, counts a warning, or writes EOF. -/
theorem Commits.stat_cases {i : Instr} {s t : State} (h : Commits s i t) (hi : i ≠ .sysReset) :
    t.stat = s.stat ∨ t.stat = s.warn.stat ∨ (writesEof i = true ∧ ∃ b, t.stat = (s.setEof b).stat) := by
  cases h with
  | sysReset => exact absurd rfl hi
  | deParseWarned => exact .inr (.inl rfl)
  | hdrEof ji => exact .inr (.inr ⟨by cases ji <;> rfl, true, rfl⟩)
  | hdrNone ji => exact .inr (.inr ⟨by cases ji <;> rfl, false, rfl⟩)
  | hdrPeek | hdrParse | scanLock => exact .inr (.inr ⟨rfl, false, rfl⟩)
  | scanEof => exact .inr (.inr ⟨rfl, true, rfl⟩)
  | _ => exact .inl rfl

theorem warnFlag_congr {s t : State} (h : t.stat = s.stat) : t.warnFlag = s.warnFlag := by
  simp [State.warnFlag, h]

theorem eofFlag_congr {s t : State} (h : t.stat = s.stat) : t.eofFlag = s.eofFlag := by
  simp [State.eofFlag, h]

/-- What any operation but SYS.RESET keeps of STATUS, ERRCODE, ERRINFO and WARN_COUNT. -/
structure StatusKept (i : Instr) (s t : State) : Prop where
  fault : s.faultFlag = true → t.faultFlag = true ∧ t.stat.errCode = s.stat.errCode ∧ t.stat.errInfo = s.stat.errInfo
  warn  : s.warnFlag = true → t.warnFlag = true
  count : s.stat.warnCount ≤ t.stat.warnCount
  eof   : writesEof i = false → t.eofFlag = s.eofFlag

theorem statusKept_of_stat_eq {i : Instr} {s t : State} (h : t.stat = s.stat) : StatusKept i s t where
  fault hf := ⟨(faultFlag_congr h).trans hf, by rw [h], by rw [h]⟩
  warn hw := (warnFlag_congr h).trans hw
  count := by rw [h]
  eof _ := eofFlag_congr h

theorem statusKept_warn {i : Instr} {s t : State} (h : t.stat = s.warn.stat) : StatusKept i s t where
  fault hf := ⟨by rw [faultFlag_congr h, faultFlag_warn, hf], by rw [h]; rfl, by rw [h]; rfl⟩
  warn _ := by rw [warnFlag_congr h, warnFlag_warn]
  count := by rw [h]; exact Nat.le_succ _
  eof _ := by rw [eofFlag_congr h, eofFlag_warn]

theorem statusKept_setEof {i : Instr} {s t : State} {b : Bool} (hi : writesEof i = true)
    (h : t.stat = (s.setEof b).stat) : StatusKept i s t where
  fault hf := ⟨by rw [faultFlag_congr h, faultFlag_setEof, hf], by rw [h]; rfl, by rw [h]; rfl⟩
  warn hw := by rw [warnFlag_congr h, warnFlag_setEof, hw]
  count := by rw [h]; exact Nat.le_refl _
  eof hne := by rw [hi] at hne; cases hne

theorem statusKept_raise (i : Instr) {s : State} (hr : Running s) (k : ErrKind) (info : Nat) :
    StatusKept i s (s.raise k info) where
  fault hf := by rw [hr] at hf; cases hf
  warn hw := by rw [warnFlag_raise, hw]
  count := Nat.le_refl _
  eof _ := eofFlag_raise s k info

theorem exec_statusKept {i : Instr} {s t : State} (h : exec i s = .next t) (hi : i ≠ .sysReset) : StatusKept i s t := by
  rcases exec_next h with ⟨-, hreset⟩ | ⟨v, rfl⟩ | ⟨-, -, hbody⟩ | ⟨hr, k, info, -, rfl⟩
  · exact absurd hreset hi
  · exact statusKept_of_stat_eq rfl
  · rcases (bodyOf_commits hbody).stat_cases hi with hst | hst | ⟨heof, b, hst⟩
    · exact statusKept_of_stat_eq hst
    · exact statusKept_warn hst
    · exact statusKept_setEof heof hst
  · exact statusKept_raise i hr k info

/-- Settles O7: a commit writes WARN or EOF, and a raise, which writes FAULT, comes only without a latched fault. -/
theorem statusBitsAreSticky : Obligations.StatusBitsAreSticky := by
  intro i s t h hi
  have hkept := exec_statusKept h hi
  refine ⟨hkept.fault, hkept.warn, hkept.count, fun hparse hpeek hscan => hkept.eof ?_⟩
  cases i with
  | hdrParse => exact absurd rfl hparse
  | hdrPeek => exact absurd rfl hpeek
  | scanFind => exact absurd rfl hscan
  | _ => rfl

/-! ## The cursors move forward (R78) -/

theorem toNat_ofNat_of_le {p : Nat} {len : Word32} (h : p ≤ len.toNat) : (BitVec.ofNat 32 p).toNat = p :=
  Nat.mod_eq_of_lt (Nat.lt_of_le_of_lt h len.isLt)

theorem Commits.pcmPos_le {i : Instr} {s t : State} (hs : CursorsOk s) (h : Commits s i t) (hi : i ≠ .sysReset)
    (hwr : ∀ a b, i ≠ .csrWr a b) : s.strm.pcmPos.toNat ≤ t.strm.pcmPos.toNat := by
  cases h with
  | sysReset => exact absurd rfl hi
  | csrWrConf reg value | csrWrEsPos reg value | csrWrPcmPos reg value | csrWrIndex reg value =>
    exact absurd rfl (hwr reg value)
  | scanEof => exact hs.pcmBound
  | scanLock p m hlock =>
    obtain ⟨hge, hin, -⟩ := scanLoop_lock hlock
    have hpos : (Machine.scanLock s p m).strm.pcmPos.toNat = p + 4 := toNat_ofNat_of_le (len := s.strm.pcmLen) (by omega)
    rw [hpos]
    omega
  | burstDec hin =>
    rw [extractBurst_pcmPos_toNat s hin]
    exact Nat.le_add_right _ _
  | _ => exact Nat.le_refl _

/-- ES_POS is moved behind the records that a header operation consumed, or rewound to the header's start (R167, R218). -/
theorem Commits.esPos_cases {i : Instr} {s t : State} (hs : CursorsOk s) (h : Commits s i t) (hi : i ≠ .sysReset)
    (hwr : ∀ a b, i ≠ .csrWr a b) :
    t.strm.esPos = s.strm.esPos ∨ (i = .fsOffer ∧ t.strm.esPos = s.hdr.start) ∨
      (i ≠ .fsOffer ∧ s.strm.esPos.toNat ≤ t.strm.esPos.toNat) := by
  have hforward : ∀ {ji : Bool} {v : ParseVars}, parseLoop s ji 3 (parseStart s) = .ok (some v) →
      s.strm.esPos.toNat ≤ (BitVec.ofNat 32 v.p).toNat := fun hloop => by
    have hv := parseLoop_parsed hloop
    rw [toNat_ofNat_of_le (hv.inside hs.esBound)]
    exact hv.forward
  cases h with
  | sysReset => exact absurd rfl hi
  | csrWrConf reg value | csrWrEsPos reg value | csrWrPcmPos reg value | csrWrIndex reg value =>
    exact absurd rfl (hwr reg value)
  | hdrNone ji v hloop => exact .inr (.inr ⟨by cases ji <;> exact nofun, hforward hloop⟩)
  | hdrPeek v f hloop | hdrParse v f hloop => exact .inr (.inr ⟨nofun, hforward hloop⟩)
  | fsOfferFlush => exact .inr (.inl ⟨rfl, rfl⟩)
  | _ => exact .inl rfl

/-- Settles O31: of the commits only the short flush moves a cursor backward, and only ES_POS, to the header's start. -/
theorem cursorsMoveForward : Obligations.CursorsMoveForward := by
  intro i s t hs h hi hwr
  refine exec_keeps_of_commits (P := fun t => _ ≤ t.strm.pcmPos.toNat ∧ (_ → _ ≤ t.strm.esPos.toNat) ∧
    (_ → t.strm.esPos = _ ∨ t.strm.esPos = _)) h hi (fun _ _ => ⟨Nat.le_refl _, fun _ => Nat.le_refl _, fun _ => .inl rfl⟩)
    fun hc => ⟨hc.pcmPos_le hs hi hwr, ?_⟩
  rcases hc.esPos_cases hs hi hwr with hsame | ⟨hoffer, hstart⟩ | ⟨hne, hle⟩
  · exact ⟨fun _ => by rw [hsame], fun _ => .inl hsame⟩
  · exact ⟨fun hne => absurd hoffer hne, fun _ => .inr hstart⟩
  · exact ⟨fun _ => hle, fun hoffer => absurd hoffer hne⟩

/-! ## The outputs are appended to (R51, R260) -/

/-- The three encoders. -/
def isEncoder : Instr → Bool
  | .burstEnc | .burstEncalt | .burstEncde _ _ => true
  | _ => false

theorem isEncoder_hdrInstr (ji : Bool) : isEncoder (hdrInstr ji) = false := by cases ji <;> rfl

/-- What `t` holds in the outputs beyond `s`, and that the length registers count it. -/
structure Appends (i : Instr) (s t : State) (burst payload : List Container) : Prop where
  burstout    : t.burstout = s.burstout ++ burst
  payout      : t.payout = s.payout ++ payload
  burstoutLen : t.strm.burstoutLen = s.strm.burstoutLen + burst.length
  payoutLen   : t.strm.payoutLen = s.strm.payoutLen + payload.length
  whole       : burst = [] ∨ burst.length = s.bsz.size.toNat
  encoder     : isEncoder i = true → burst.length = s.bsz.size.toNat

theorem appends_nothing {i : Instr} {s t : State} (hb : t.burstout = s.burstout) (hp : t.payout = s.payout)
    (hbl : t.strm.burstoutLen = s.strm.burstoutLen) (hpl : t.strm.payoutLen = s.strm.payoutLen)
    (hi : isEncoder i = false) : Appends i s t [] [] where
  burstout := by rw [hb, List.append_nil]
  payout := by rw [hp, List.append_nil]
  burstoutLen := hbl
  payoutLen := hpl
  whole := .inl rfl
  encoder he := by rw [hi] at he; cases he

/-- A burst that an encoder appends has BSZ_SIZE words (R260). -/
theorem appends_burst (i : Instr) (s : State) {t : State} {burst : List Container}
    (hlen : burst.length = s.bsz.size.toNat) (hb : t.burstout = s.burstout ++ burst) (hp : t.payout = s.payout)
    (hbl : t.strm.burstoutLen = s.strm.burstoutLen + s.bsz.size.toNat) (hpl : t.strm.payoutLen = s.strm.payoutLen) :
    Appends i s t burst [] where
  burstout := hb
  payout := by rw [hp, List.append_nil]
  burstoutLen := by rw [hbl, hlen]
  payoutLen := hpl
  whole := .inr hlen
  encoder _ := hlen

theorem Commits.appends {i : Instr} {s t : State} (h : Commits s i t) (hi : i ≠ .sysReset) :
    ∃ burst payload, Appends i s t burst payload := by
  cases h with
  | sysReset => exact absurd rfl hi
  | hdrEof ji | hdrNone ji => exact ⟨_, _, appends_nothing rfl rfl rfl rfl (isEncoder_hdrInstr ji)⟩
  | burstEnc hlen => exact ⟨_, _, appends_burst _ s hlen rfl rfl rfl rfl⟩
  | burstEncalt T hlen => exact ⟨_, _, appends_burst _ s hlen rfl rfl rfl rfl⟩
  | burstEncde len depth m hlen => exact ⟨_, _, appends_burst _ s hlen rfl rfl rfl rfl⟩
  | burstDec =>
    exact ⟨[], s.pcm.readList s.strm.pcmPos.toNat (extractWords s.sc), (List.append_nil _).symm, rfl, rfl, by simp,
      .inl rfl, nofun⟩
  | _ => exact ⟨_, _, appends_nothing rfl rfl rfl rfl rfl⟩

theorem exec_appends {i : Instr} {s t : State} (h : exec i s = .next t) (hi : i ≠ .sysReset) :
    ∃ burst payload, t.burstout = s.burstout ++ burst ∧ t.payout = s.payout ++ payload ∧
      (burst = [] ∨ burst.length = s.bsz.size.toNat) := by
  refine exec_keeps_of_commits (P := fun t => ∃ burst payload, t.burstout = s.burstout ++ burst ∧
    t.payout = s.payout ++ payload ∧ (burst = [] ∨ burst.length = s.bsz.size.toNat)) h hi (fun _ _ => ?status)
    fun hc => ?commit
  case status => exact ⟨[], [], (List.append_nil _).symm, (List.append_nil _).symm, .inl rfl⟩
  case commit =>
    obtain ⟨burst, payload, ha⟩ := hc.appends hi
    exact ⟨burst, payload, ha.burstout, ha.payout, ha.whole⟩

theorem exec_encoder_length {i : Instr} {s t : State} (h : exec i s = .next t) (hi : isEncoder i = true)
    (hr : Running s) (hrt : Running t) : t.burstout.length = s.burstout.length + s.bsz.size.toNat := by
  have hne : i ≠ .sysReset := by rintro rfl; cases hi
  obtain ⟨burst, payload, ha⟩ := (bodyOf_commits (bodyOf_ok_of_running h hr hrt)).appends hne
  rw [ha.burstout, List.length_append, ha.encoder hi]

/-- Settles O45: a commit appends to the outputs, and an encoder that ends without a fault committed. -/
theorem outputsAreAppendOnly : Obligations.OutputsAreAppendOnly := by
  intro i s t h hi
  obtain ⟨burst, payload, hburst, hpayload, hwhole⟩ := exec_appends h hi
  refine ⟨⟨burst, hburst, hwhole⟩, ⟨payload, hpayload⟩, fun henc hr hrt => exec_encoder_length h ?_ hr hrt⟩
  rcases henc with rfl | rfl | ⟨len, depth, rfl⟩ <;> rfl

/-! ## The output lengths and the container width (R25, R30) -/

theorem Commits.keeps_outputsOk {i : Instr} {s t : State} (hs : OutputsOk s) (h : Commits s i t) : OutputsOk t := by
  by_cases hi : i = .sysReset
  · subst hi
    generalize hreset : Instr.sysReset = i at h
    cases h with
    | sysReset => exact ⟨rfl, rfl⟩
    | hdrEof ji | hdrNone ji => cases ji <;> cases hreset
    | _ => cases hreset
  · obtain ⟨burst, payload, ha⟩ := h.appends hi
    exact ⟨by rw [ha.burstoutLen, ha.burstout, List.length_append, hs.burstout],
      by rw [ha.payoutLen, ha.payout, List.length_append, hs.payout]⟩

theorem Commits.keeps_confOk {i : Instr} {s t : State} (hs : ConfOk s) (h : Commits s i t) : ConfOk t := by
  cases h with
  | sysReset => exact .inl rfl
  | csrWrConf reg value conf hcw =>
    rcases hcw with hsame | hcw
    · show conf.cw.toNat = 16 ∨ conf.cw.toNat = 24 ∨ conf.cw.toNat = 32
      rw [hsame]
      exact hs
    · exact hcw
  | _ => exact hs

/-! ## The fault latch (R29, R321, R331) -/

theorem latchOk_congr {s t : State} (hs : LatchOk s) (h : t.stat = s.stat) : LatchOk t where
  clear := by rw [faultFlag_congr h, h]; exact hs.clear
  codes := by rw [faultFlag_congr h, h]; exact hs.codes
  warn := by rw [warnFlag_congr h, h]; exact hs.warn

theorem latchOk_warn {s : State} (hs : LatchOk s) : LatchOk s.warn where
  clear := by rw [faultFlag_warn]; exact hs.clear
  codes := by rw [faultFlag_warn]; exact hs.codes
  warn := iff_of_true (warnFlag_warn s) (Nat.succ_pos _)

theorem latchOk_setEof {s : State} (hs : LatchOk s) (b : Bool) : LatchOk (s.setEof b) where
  clear := by rw [faultFlag_setEof]; exact hs.clear
  codes := by rw [faultFlag_setEof]; exact hs.codes
  warn := by rw [warnFlag_setEof]; exact hs.warn

theorem latchOk_raise {s : State} (hs : LatchOk s) {k : ErrKind} (heof : k ≠ .eof) (hcontainer : k ≠ .unsupportedContainer)
    (info : Nat) : LatchOk (s.raise k info) where
  clear := by rw [faultFlag_raise]; exact nofun
  codes _ := ⟨k, heof, hcontainer, rfl⟩
  warn := by rw [warnFlag_raise]; exact hs.warn

theorem latchOk_of_reset {t : State} (h : t.stat = StatRegs.reset) : LatchOk t where
  clear _ := by rw [h]; exact ⟨rfl, rfl⟩
  codes := by simp [State.faultFlag, h, StatRegs.reset]
  warn := by simp [State.warnFlag, h, StatRegs.reset]

/-- R321 lists neither Eof nor UnsupportedContainer for any operation (R324). -/
theorem raisable_of_code_mem {k : ErrKind} {i : Instr} (h : k.code ∈ errCodesOf i) :
    k ≠ .eof ∧ k ≠ .unsupportedContainer := by
  have hnone : ErrKind.eof.code ∉ errCodesOf i ∧ ErrKind.unsupportedContainer.code ∉ errCodesOf i := by
    cases i <;> exact ⟨by simp [errCodesOf, ErrKind.code], by simp [errCodesOf, ErrKind.code]⟩
  constructor
  · rintro rfl; exact hnone.1 h
  · rintro rfl; exact hnone.2 h

theorem step_keeps_latchOk {s t : State} (hs : LatchOk s) (h : step s = .next t) : LatchOk t := by
  rcases step_next h with rfl | ⟨rest, -, rfl | ⟨v, rfl⟩ | ⟨i, -, hi, hbody⟩ | ⟨-, k, info, rfl, hk⟩⟩
  · exact hs
  · exact latchOk_of_reset rfl
  · exact latchOk_congr hs rfl
  · rcases (bodyOf_commits hbody).stat_cases hi with hst | hst | ⟨-, b, hst⟩
    · exact latchOk_congr hs hst
    · exact latchOk_congr (latchOk_warn hs) hst
    · exact latchOk_congr (latchOk_setEof hs b) hst
  · have hraisable : k ≠ .eof ∧ k ≠ .unsupportedContainer := by
      rcases hk with rfl | ⟨i, hraised⟩
      · exact ⟨nofun, nofun⟩
      · exact raisable_of_code_mem ((bodyOf_raisesOnly i _).code_mem hraised)
    exact latchOk_congr (latchOk_raise hs hraisable.1 hraisable.2 info) rfl

/-! ## The lock (R271, R276) -/

/-- The top `n` bits of a container are an `n`-bit number (R12). -/
theorem rj_lt (c : Container) {n : Nat} (hn : n ≤ 32) : rj c n < 2 ^ n := by
  have hc : c.toNat < 2 ^ (32 - n) * 2 ^ n := by
    rw [← Nat.pow_add, Nat.sub_add_cancel hn]
    exact c.isLt
  rw [rj, Nat.shiftRight_eq_div_pow]
  exact Nat.div_lt_of_lt_mul hc

/-- A lock stands at a whole preamble, with a Pd of the mode's width. -/
theorem scanLock_scannerOk {s : State} {p k : Nat} {m : DataMode}
    (hlock : scanLoop s.cfg s.pcm s.strm.pcmLen.toNat k s.strm.pcmPos.toNat = .lock p m) :
    ScannerOk (scanLock s p m) := by
  obtain ⟨-, hin, -⟩ := scanLoop_lock hlock
  refine ⟨fun _ => Option.some_ne_none m, fun m' _ hm => ?_, fun _ => ?_⟩
  · obtain rfl : m = m' := Option.some.inj hm
    have hle := bits_le m
    exact Nat.lt_of_le_of_lt (Nat.mod_le _ _) (rj_lt _ (by omega))
  · have hpapos : (scanLock s p m).sc.papos.toNat = p := toNat_ofNat_of_le (len := s.strm.pcmLen) (by omega)
    rw [hpapos]
    exact Nat.succ_le_of_lt hin

theorem scannerOk_of_unlocked {t : State} (h : t.sc.locked = false) : ScannerOk t where
  mode := by simp [h]
  pd := by simp [h]
  pa := by simp [h]

theorem Commits.keeps_scannerOk {i : Instr} {s t : State} (hs : ScannerOk s) (h : Commits s i t) : ScannerOk t := by
  cases h with
  | sysReset | scanEof | burstDec => exact scannerOk_of_unlocked rfl
  | scanLock p m hlock => exact scanLock_scannerOk hlock
  | _ => exact { hs with }

/-- Settles O57: the four properties one by one; the latch is the one that a raise, too, has to keep. -/
theorem statusRegistersStayConsistent : Obligations.StatusRegistersStayConsistent := by
  intro s t h
  refine ⟨fun hs => ?outputs, fun hs => ?conf, fun hs => step_keeps_latchOk hs h, fun hs => ?scanner⟩
  case outputs => exact step_keeps_of_commits hs h (fun _ _ _ hu => { hu with }) fun hu hc => hc.keeps_outputsOk hu
  case conf => exact step_keeps_of_commits (P := fun u => ConfOk u) hs h (fun _ _ _ hu => hu) fun hu hc => hc.keeps_confOk hu
  case scanner => exact step_keeps_of_commits hs h (fun _ _ _ hu => { hu with }) fun hu hc => hc.keeps_scannerOk hu

end Sys2Proof.Laws

/-!
The invariants of the machine together: that they hold after reset, that every step keeps them, and that a state which meets
them never steps to a fault of the model (assumption log 12).
-/

namespace Sys2Proof.Laws

open Sys2Proof.Machine Memory

/-- Settles O58: each invariant is kept by its own lemma; the frameset's needs the header's and the burst size's. -/
theorem machineInvariantIsKept : Obligations.MachineInvariantIsKept := by
  intro s t hs h
  obtain ⟨hcfg, hheader, hburstSize⟩ := headerAndBurstSizeStayLegal s t hs.cfg h
  obtain ⟨houtputs, hconf, hlatch, hscanner⟩ := statusRegistersStayConsistent s t h
  exact
    { cfg := hcfg ▸ hs.cfg
      memories := memoriesStayCanonical s t hs.memories h
      cursors := cursorsStayInTheirStreams s t hs.cursors h
      unpacker := unpackerCursorStaysNormalised s t hs.unpacker h
      header := hheader hs.header
      burstSize := hburstSize hs.burstSize
      frameset := framesetInvariantIsKept s t hs.header hs.burstSize hs.frameset h
      scanner := hscanner hs.scanner
      outputs := houtputs hs.outputs
      conf := hconf hs.conf
      latch := hlatch hs.latch }

/-! ## The state after reset (R360) -/

/-- The reset state meets every invariant, under a well-formed configuration and canonical inputs. -/
theorem enterReset_machineOk {s : State} (hwf : s.cfg.wellFormed = true) (hs : MemoriesOk s) :
    MachineOk s.enterReset where
  cfg := hwf
  memories := enterReset_memoriesOk hs
  cursors := enterReset_cursorsOk s
  unpacker := unpackerOk_of_depth_none rfl
  header := enterReset_headerOk s
  burstSize := enterReset_burstSizeOk s
  frameset := framesetOk_of_reset rfl
  scanner := scannerOk_of_unlocked rfl
  outputs := ⟨rfl, rfl⟩
  conf := .inl rfl
  latch := latchOk_of_reset rfl

theorem reset_memoriesOk : MemoriesOk State.reset :=
  ⟨wf_empty, wf_empty, wf_empty, wf_empty, wf_empty, wf_empty, wf_empty⟩

/-- At power-on the machine is in the reset state that SYS.RESET would enter. -/
theorem enterReset_reset : State.reset.enterReset = State.reset := rfl

/-- Settles O59: the state at power-on is a reset state with empty inputs, and waits because its port is empty. -/
theorem resetStateIsConsistent : Obligations.ResetStateIsConsistent := by
  refine ⟨?ok, ?running, step_of_empty_port rfl⟩
  case ok =>
    rw [← enterReset_reset]
    exact enterReset_machineOk cfg_wellFormed reset_memoriesOk
  case running =>
    rw [← enterReset_reset]
    exact faultFlag_enterReset _

/-! ## Computations that do not end in a fault of the model -/

/-- The computation ends in no fault of the model. -/
structure FaultFree {α : Type} (r : Except Exit α) : Prop where
  ne_faulted : ∀ f, r ≠ .error (.faulted f)

namespace FaultFree

variable {α β : Type} {x y : Except Exit α}

protected theorem ok (a : α) : FaultFree (.ok a) := ⟨nofun⟩

theorem refused (why : Refusal) : FaultFree (α := α) (.error (.refused why)) := ⟨nofun⟩

theorem raised (kind : ErrKind) (info : Nat) : FaultFree (α := α) (.error (.raised kind info)) := ⟨nofun⟩

/-- A test between two computations, each of which may rely on how the test ended. -/
protected theorem ite {p : Prop} [Decidable p] (hx : p → FaultFree x) (hy : ¬ p → FaultFree y) :
    FaultFree (if p then x else y) := by
  split
  · exact hx ‹_›
  · exact hy ‹_›

/-- An error that the computation around it hands on. -/
protected theorem error {e : Exit} (hx : FaultFree x) (he : x = .error e) : FaultFree (α := β) (.error e) := by
  constructor
  rintro f ⟨⟩
  exact hx.ne_faulted f he

protected theorem bind {f : α → Except Exit β} (hx : FaultFree x) (hf : ∀ a, FaultFree (f a)) :
    FaultFree (x >>= f) := by
  cases x with
  | ok a => exact hf a
  | error e => exact hx.error rfl

end FaultFree

/-! ## Bodies without an access or a lookup -/

theorem writeProblem_ne_faulted (s : State) (r : Reg) (b : Word32) (f : Fault) :
    writeProblem s r b ≠ some (.faulted f) := by
  unfold writeProblem
  split_ifs <;> exact nofun

theorem csrWrBody_faultFree (reg value : Word32) (s : State) : FaultFree (csrWrBody reg value s) := by
  unfold csrWrBody
  split
  · exact .raised _ _
  · refine .ite (fun _ => .raised _ _) fun _ => ?_
    split
    · rename_i e hp
      constructor
      rintro f ⟨⟩
      exact writeProblem_ne_faulted s _ value f hp
    · exact .ok _

theorem buInitBody_faultFree (depth len : Word32) (s : State) : FaultFree (buInitBody depth len s) := by
  unfold buInitBody
  split
  · exact .refused _
  · exact .ite (fun _ => .refused _) fun _ => .ok _

theorem deUnpack_faultFree (m : DataMode) (items width : Nat) (u : Unpacker) : FaultFree (deUnpack m items width u) := by
  unfold deUnpack
  split
  · exact .ok _
  · exact .raised _ _

theorem deField_faultFree (m : DataMode) (width : Nat) (u : Unpacker) : FaultFree (deField m width u) := by
  unfold deField
  split
  · exact .ok _
  · rename_i he
    exact (deUnpack_faultFree ..).error he

theorem deFieldIf_faultFree (present : Bool) (m : DataMode) (width : Nat) (u : Unpacker) :
    FaultFree (deFieldIf present m width u) :=
  .ite (fun _ => deField_faultFree ..) fun _ => .ok _

theorem deUnkeyIf_faultFree (present : Bool) (m : DataMode) (key items : Nat) (u : Unpacker) :
    FaultFree (deUnkeyIf present m key items u) := by
  unfold deUnkeyIf
  refine .ite (fun _ => ?_) fun _ => .ok _
  split
  · exact .ok _
  · exact .raised _ _

/-- The steps of R182 in their order. -/
theorem deSequence_faultFree (m : DataMode) (u : Unpacker) : FaultFree (deSequence m u) :=
  (deUnpack_faultFree ..).bind fun _ => (deField_faultFree ..).bind fun _ => (deField_faultFree ..).bind fun _ =>
  (deFieldIf_faultFree ..).bind fun _ => (deUnkeyIf_faultFree ..).bind fun _ => (deField_faultFree ..).bind fun _ =>
  (deField_faultFree ..).bind fun _ => (deUnkeyIf_faultFree ..).bind fun _ => (deField_faultFree ..).bind fun _ =>
  (deField_faultFree ..).bind fun _ => .ok _

theorem deParseBody_faultFree (len depth : Word32) (s : State) : FaultFree (deParseBody len depth s) := by
  unfold deParseBody
  split
  · exact .refused _
  · refine .ite (fun _ => .refused _) fun _ => ?_
    split
    · rename_i he
      exact (deSequence_faultFree ..).error he
    · exact .ok _

theorem burstEncdeBody_faultFree (len depth : Word32) (s : State) : FaultFree (burstEncdeBody len depth s) := by
  unfold burstEncdeBody
  split
  · exact .refused _
  · exact .ite (fun _ => .refused _) fun _ => .ite (fun _ => .refused _) fun _ => .ite (fun _ => .raised _ _) fun _ =>
      .ite (fun _ => .raised _ _) fun _ => .ite (fun _ => .raised _ _) fun _ => .ite (fun _ => .raised _ _) fun _ => .ok _

theorem scanFindBody_faultFree (s : State) : FaultFree (scanFindBody s) := by
  unfold scanFindBody
  dsimp only
  split
  · exact .ok _
  · exact .raised _ _
  · exact .ok _

theorem burstDecBody_faultFree (s : State) : FaultFree (burstDecBody s) :=
  .ite (fun _ => .refused _) fun _ => .ite (fun _ => .raised _ _) fun _ => .ok _

/-! ## Bodies that access DEBUF (R131, R132) -/

/-- The buffer of an initialised unpacker fits DEBUF. -/
theorem debufHolds_of_unpackerOk {s : State} (hs : UnpackerOk s) {m : DataMode} (hd : s.bu.depth = some m) :
    s.debufHolds s.bu.len.toNat = true :=
  inMemory_of_le (by rw [Nat.zero_add]; exact hs.fits (by simp [hd]))

theorem buUnpackBody_faultFree {s : State} (hs : UnpackerOk s) (n w : Word32) : FaultFree (buUnpackBody n w s) := by
  unfold buUnpackBody
  split
  · exact .refused _
  · rename_i m hd
    rw [debufHolds_of_unpackerOk hs hd]
    refine .ite (fun _ => .refused _) fun _ => .ite (fun _ => .refused _) fun _ => .ite nofun fun _ => ?_
    split
    · exact .raised _ _
    · exact .ok _

theorem buUnkeyBody_faultFree {s : State} (hs : UnpackerOk s) (key n : Word32) : FaultFree (buUnkeyBody key n s) := by
  unfold buUnkeyBody
  split
  · exact .refused _
  · rename_i m hd
    rw [debufHolds_of_unpackerOk hs hd]
    refine .ite nofun fun _ => ?_
    split
    · exact .raised _ _
    · exact .ok _

/-! ## The header operations (R47, R162) -/

theorem ac3Size_faultFree {c : Cfg} (hwf : c.wellFormed = true) (f k : Nat) : FaultFree (ac3Size c f k) := by
  unfold ac3Size
  refine .ite (fun _ => .raised _ _) fun hf => .ite (fun _ => .raised _ _) fun hk => ?_
  split
  · exact .ok _
  · rename_i hnone
    have hsome := (tables hwf (Nat.lt_of_not_le hf) (Nat.lt_of_not_le hk)).1
    rw [hnone] at hsome
    cases hsome

theorem decodeHeader_faultFree {c : Cfg} (hwf : c.wellFormed = true) (alt : Bool) (h : List Word16) (rev : Bool) :
    FaultFree (decodeHeader c alt h rev) := by
  have hkind : ∀ bsid, FaultFree (kindOf bsid) := fun bsid =>
    .ite (fun _ => .ok _) fun _ => .ite (fun _ => .ok _) fun _ => .raised _ _
  have hwords : ∀ hd, FaultFree (checkFrameWords hd) := fun hd => .ite (fun _ => .raised _ _) fun _ => .ok _
  have hac3 : ∀ bsid, FaultFree (decodeAc3 c h rev bsid) := fun bsid => by
    unfold decodeAc3
    dsimp only
    split
    · rename_i he
      exact (ac3Size_faultFree hwf _ _).error he
    · exact .ok _
  unfold decodeHeader
  dsimp only
  split
  · rename_i he
    exact (hkind _).error he
  · split
    · rename_i he
      exact (hac3 _).error he
    · exact hwords _
  · exact .ite (fun _ => .raised _ _) fun _ => hwords _

theorem passAudio_faultFree {s : State} (hwf : s.cfg.wellFormed = true) (ji rev : Bool) (v : ParseVars) :
    FaultFree (passAudio s ji rev v) := by
  unfold passAudio
  refine .ite (fun _ => .ok _) fun _ => .ite (fun _ => .raised _ _) fun _ => ?_
  split
  · rename_i he
    exact (decodeHeader_faultFree hwf _ _ _).error he
  · exact .ite (fun _ => .ok _) fun _ => .ite (fun _ => .raised _ _) fun _ => .ok _

theorem parsePass_faultFree {s : State} (hwf : s.cfg.wellFormed = true) (ji : Bool) (v : ParseVars) :
    FaultFree (parsePass s ji v) := by
  unfold parsePass
  refine .ite (fun _ => .ite (fun _ => .ok _) fun _ => .ok _) fun _ => .ite (fun _ => .raised _ _) fun _ => ?_
  split
  · exact .ite (fun _ => .ok _) fun _ => .ite (fun _ => .raised _ _) fun _ => .ok _
  · exact passAudio_faultFree hwf ji false v
  · exact passAudio_faultFree hwf ji true v
  · exact .raised _ _

theorem parseLoop_faultFree {s : State} (hwf : s.cfg.wellFormed = true) (ji : Bool) :
    ∀ (k : Nat) (v : ParseVars), FaultFree (parseLoop s ji k v)
  | 0, _ => .ok _
  | k + 1, v => by
    rw [parseLoop]
    split
    · rename_i he
      exact (parsePass_faultFree hwf ji v).error he
    · exact .ok _
    · exact .ok _
    · exact parseLoop_faultFree hwf ji k _

/-- A frame that the loop found fits FRAME. -/
theorem inMemory_frame_of_found {s : State} (hwf : s.cfg.wellFormed = true) {ji : Bool} {v : ParseVars} {f : Found}
    (hloop : parseLoop s ji 3 (parseStart s) = .ok (some v)) (hf : v.found = some f) :
    inMemory 0 f.hdr.frameWords s.cfg.frameCap = true := by
  obtain ⟨rev, hd⟩ := parseLoop_decoded hloop hf
  exact inMemory_of_le (by rw [Nat.zero_add]; exact (decodeHeader_legal hwf hd).fits)

theorem hdrBody_faultFree {s : State} (hwf : s.cfg.wellFormed = true) (ji : Bool) : FaultFree (hdrBody ji s) := by
  unfold hdrBody
  split
  · rename_i he
    exact (parseLoop_faultFree hwf ji 3 _).error he
  · exact .ok _
  · rename_i v hloop
    unfold commitParse
    dsimp only
    split
    · exact .ok _
    · rename_i f hf
      rw [inMemory_frame_of_found hwf hloop hf]
      exact .ite (fun _ => .ok _) fun _ => .ite nofun fun _ => .ok _

/-! ## Burst sizes, the accumulator and the encoders of a set (R202, R221, R250) -/

theorem bszSizeBody_faultFree {s : State} (hwf : s.cfg.wellFormed = true) (format frc k : Word32) :
    FaultFree (bszSizeBody format frc k s) := by
  have hdolbyE : ∀ frc i, FaultFree (sizeForDolbyE s.cfg frc i) := fun frc i => by
    unfold sizeForDolbyE
    refine .ite (fun _ => .ok _) fun hne => .ite (fun hmem => ?_) fun _ => .raised _ _
    split
    · exact .ok _
    · rename_i hnone
      have hsome := bsDe_isSome hwf hmem hne
      rw [hnone] at hsome
      cases hsome
  have hsize : ∀ format frc i, FaultFree (sizeFor s.cfg format frc i) := fun format frc i => by
    unfold sizeFor
    split
    · exact .ok _
    · exact .ok _
    · exact hdolbyE frc i
    · exact .raised _ _
    · exact .raised _ _
  unfold bszSizeBody
  split
  · rename_i he
    exact (hsize _ _ _).error he
  · exact .ok _

/-- A frame that passes the test of the capacity fits FRAME, and FSBUF behind the set's words. -/
theorem fsOfferBody_faultFree {s : State} (hh : HeaderOk s) (hb : BurstSizeOk s) : FaultFree (fsOfferBody s) := by
  unfold fsOfferBody
  refine .ite (fun _ => .refused _) fun _ => .ite (fun _ => .refused _) fun hv => .ite (fun _ => .refused _) fun hbv =>
    .ite (fun _ => .ok _) fun _ => .ite (fun _ => .raised _ _) fun hx => ?_
  simp only [Bool.not_eq_false, Bool.and_eq_true] at hv hbv
  simp only [exceedsCapacity, decide_eq_true_eq, not_lt] at hx
  have hframe : inMemory 0 s.hdr.frameWords.toNat s.cfg.frameCap = true :=
    inMemory_of_le (by rw [Nat.zero_add]; exact hh.fits hv.1)
  have hset : inMemory s.fs.words s.hdr.frameWords.toNat s.cfg.fsbufCap = true :=
    inMemory_of_le (by have := hb.fits hbv; omega)
  rw [hframe, hset]
  exact .ite nofun fun _ => .ite nofun fun _ => .ok _

/-- A closed set holds a frame (R228). -/
theorem nframes_pos_of_closed {s : State} (hs : FramesetOk s) (hclosed : s.fs.state ≠ .accumulating) :
    0 < s.fs.nframes := by
  cases hstate : s.fs.state with
  | accumulating => exact absurd hstate hclosed
  | flushedShort => exact (hs.short hstate).1
  | complete =>
    refine Nat.pos_of_ne_zero fun hn => ?_
    have hsix := hs.complete.2 hstate
    rw [(hs.none hn).2] at hsix
    cases hsix

/-- A closed set stands in FSBUF. -/
theorem inMemory_closed_set {s : State} (hs : FramesetOk s) (hclosed : s.fs.state ≠ .accumulating) :
    inMemory 0 s.fs.words s.cfg.fsbufCap = true :=
  inMemory_of_le (by have := hs.fits (nframes_pos_of_closed hs hclosed); omega)

theorem burstEncBody_faultFree {s : State} (hs : FramesetOk s) : FaultFree (burstEncBody s) := by
  unfold burstEncBody
  split
  · exact .refused _
  · rename_i hp
    rw [inMemory_closed_set hs (closedSetProblem_none hp).1]
    exact .ite (fun _ => .raised _ _) fun _ => .ite (fun _ => .raised _ _) fun _ => .ite nofun fun _ => .ok _

theorem burstEncaltBody_faultFree {s : State} (hs : FramesetOk s) : FaultFree (burstEncaltBody s) := by
  unfold burstEncaltBody
  split
  · exact .refused _
  · rename_i hp
    have hclosed := (closedSetProblem_none hp).1
    rw [inMemory_closed_set hs hclosed]
    refine .ite (fun _ => .raised _ _) fun hformat => ?_
    split
    · rename_i hnone
      have hsome : (altPointOf s).isSome = true :=
        hs.ac3Codes (nframes_pos_of_closed hs hclosed) (not_not.1 hformat)
      rw [hnone] at hsome
      cases hsome
    · exact .ite (fun _ => .raised _ _) fun _ => .ite (fun _ => .raised _ _) fun _ => .ite nofun fun _ => .ok _

/-! ## Every operation -/

theorem bodyOf_faultFree {s : State} (hs : MachineOk s) (i : Instr) : FaultFree (bodyOf i s) := by
  cases i with
  | sysReset | fsFlush | fsClear => exact .ok _
  | csrRd reg =>
    simp only [bodyOf]
    split
    · exact .ok _
    · exact .raised _ _
  | csrWr reg value => exact csrWrBody_faultFree reg value s
  | buInit depth len => exact buInitBody_faultFree depth len s
  | buUnpack n w => exact buUnpackBody_faultFree hs.unpacker n w
  | buUnkey key n => exact buUnkeyBody_faultFree hs.unpacker key n
  | deParse len depth => exact deParseBody_faultFree len depth s
  | hdrParse => exact hdrBody_faultFree hs.cfg false
  | hdrPeek => exact hdrBody_faultFree hs.cfg true
  | bszSize format frc k => exact bszSizeBody_faultFree hs.cfg format frc k
  | fsOffer => exact fsOfferBody_faultFree hs.header hs.burstSize
  | burstEnc => exact burstEncBody_faultFree hs.frameset
  | burstEncalt => exact burstEncaltBody_faultFree hs.frameset
  | burstEncde len depth => exact burstEncdeBody_faultFree len depth s
  | scanFind => exact scanFindBody_faultFree s
  | burstDec => exact burstDecBody_faultFree s

/-- Taking the command from the port touches no invariant. -/
theorem machineOk_port {s : State} (hs : MachineOk s) (rest : List CmdWord) : MachineOk { s with port := rest } :=
  { hs with
    memories := { hs.memories with }, cursors := { hs.cursors with }, unpacker := { hs.unpacker with }
    header := { hs.header with }, burstSize := { hs.burstSize with }, frameset := { hs.frameset with }
    scanner := { hs.scanner with }, outputs := { hs.outputs with }, latch := { hs.latch with } }

/-- Settles O60: a step faults only where the body of the command's operation does, and an illegal command raises. -/
theorem noModelFaultIsReachable : Obligations.NoModelFaultIsReachable := by
  intro s hs f hf
  rcases step_cases hf with ⟨-, hwait⟩ | ⟨w, rest, -, ⟨i, -, hexec⟩ | ⟨op, -, hillegal⟩⟩
  · cases hwait
  · exact (bodyOf_faultFree (machineOk_port hs rest) i).ne_faulted f (exec_fault hexec).2
  · exact absurd (runOp_fault.1 hillegal).2 nofun

end Sys2Proof.Laws

/-!
The system operations and the burst sizes: the registers after SYS.RESET (R301, R360), what CSR.RD reads and CSR.WR rejects
(R303, R306 of 48_system.md), and the sizes of BSZ.SIZE (R202, R204 of 44_burst_size.md).
-/

namespace Sys2Proof.Laws

open Sys2Proof.Machine

/-! ## SYS.RESET (R301) -/

theorem regValue_enterReset (s : State) (r : Reg) (hcw : r ≠ .cfgCw) (hes : r ≠ .esLen) (hpcm : r ≠ .pcmLen) :
    s.enterReset.regValue r = 0 := by
  cases r with
  | cfgCw => exact absurd rfl hcw
  | esLen => exact absurd rfl hes
  | pcmLen => exact absurd rfl hpcm
  | _ => rfl

/-- Settles O9: SYS.RESET enters `enterReset` from every state, and its registers read as R360 lists them. -/
theorem sysResetEntersTheResetState : Obligations.SysResetEntersTheResetState :=
  fun s => ⟨s.enterReset, rfl, rfl, rfl, rfl, rfl, rfl, rfl, regValue_enterReset s, rfl, rfl, rfl, rfl, rfl⟩

/-! ## CSR.RD and CSR.WR (R303, R306) -/

theorem reg_mem_all (r : Reg) : r ∈ Reg.all := List.mem_of_find?_eq_some (ofNumber_number r)

/-- Settles O10: the numbers by evaluation; a number finds its register among all, and CSR.RD answers its value. -/
theorem csrRdReturnsTheRegister : Obligations.CsrRdReturnsTheRegister :=
  ⟨rfl, reg_mem_all, fun s _ _ hr => exec_csrRd_known hr s⟩

/-- The numbers of the six writable registers (R306 (b)). -/
theorem writable_eq_false_of_number {r : Reg} {n : Nat} (hr : r.number = n)
    (hn : n ∉ [0x00, 0x01, 0x02, 0x10, 0x12, 0x52]) : r.writable = false := by
  subst hr
  refine Bool.eq_false_iff.2 fun hw => hn ?_
  rcases (writable_iff r).1 hw with rfl | rfl | rfl | rfl | rfl | rfl <;> decide

/-- The bits of a register number lie below the 0x20000 of R306 (b), so that its `|` is a sum. -/
theorem readOnlyRegInfo_eq_add {a : Word32} (ha : a.toNat < 0x7C) : readOnlyRegInfo a = 0x20000 + a.toNat := by
  have hor : 2 ^ 17 + a.toNat = 2 ^ 17 ||| a.toNat := Nat.two_pow_add_eq_or_of_lt (i := 17) (by omega) 1
  exact hor.symm

theorem cwAdmitted_eq_false {b : Word32} (h16 : b ≠ 16) (h24 : b ≠ 24) (h32 : b ≠ 32) : cwAdmitted b = false := by
  simp only [cwAdmitted, beq_eq_false_iff_ne.2 h16, beq_eq_false_iff_ne.2 h24, beq_eq_false_iff_ne.2 h32, Bool.or_false]

theorem csrWrBody_of_writeProblem {s : State} {r : Reg} {reg b : Word32} {e : Exit} (hreg : r.number = reg.toNat)
    (hw : r.writable = true) (hp : writeProblem s r b = some e) : csrWrBody reg b s = .error e := by
  simp [csrWrBody, ← hreg, ofNumber_number, hw, hp]

/-- Settles O13: the test on the register, and behind it the test on the value for CFG_CW. -/
theorem csrWrRejectsTheValue : Obligations.CsrWrRejectsTheValue := by
  intro s a b hr
  refine ⟨fun r hnum hro => ?readOnly, fun h16 h24 h32 => ?carrierWidth⟩
  case readOnly =>
    have hw := writable_eq_false_of_number hnum hro
    have hbody : bodyOf (.csrWr a b) s = .error (.raised .illegalOp (readOnlyRegInfo a)) := by
      simp only [bodyOf, csrWrBody, ← hnum, ofNumber_number, hw, if_true]
    rw [← readOnlyRegInfo_eq_add (hnum ▸ number_lt r)]
    exact exec_raised_of_body hr hbody
  case carrierWidth =>
    have hp : writeProblem s .cfgCw b = some (.raised .configError b.toNat) :=
      if_pos ⟨rfl, cwAdmitted_eq_false h16 h24 h32⟩
    have hbody : bodyOf (.csrWr 0x02 b) s = .error (.raised .configError b.toNat) :=
      csrWrBody_of_writeProblem (reg := 0x02) rfl rfl hp
    exact exec_raised_of_body hr hbody

/-! ## BSZ.SIZE (R202, R204) -/

/-- BSZ.SIZE writes the size that `SizeFor` gives. -/
theorem exec_bszSize_of_sizeFor {s : State} {format frc k size : Word32} (hr : Running s)
    (h : sizeFor s.cfg format.toNat frc.toNat (k.toNat % 5) = .ok size) :
    exec (.bszSize format frc k) s =
      .next { s with bsz := { s.bsz with size := size, valid := true }, result := size } := by
  have hbody : bodyOf (.bszSize format frc k) s =
      .ok { s with bsz := { s.bsz with size := size, valid := true }, result := size } := by
    rw [bodyOf, bszSizeBody, h]
  exact exec_next_of_body hr hbody

theorem sizeFor_dolbyE_constant {c : Cfg} {frc : Nat} {size : Word32} (i : Nat) (hmem : frc ∈ c.deFrcodes)
    (hne : frc ≠ c.frc2997) (hsize : c.bsDe.lookup frc = some size) : sizeFor c 2 frc i = .ok size := by
  rw [sizeFor_dolbyE, sizeForDolbyE, if_neg hne, if_pos (by simpa using hmem), hsize]

/-- Settles O32: two formats have one size each, a Dolby E code other than FRC_2997 the size of the table. -/
theorem bszSizeReturnsTheConstants : Obligations.BszSizeReturnsTheConstants := by
  intro s frc k size hr
  refine ⟨exec_bszSize_of_sizeFor hr rfl, exec_bszSize_of_sizeFor hr rfl, fun hmem hne hsize => ?_⟩
  exact exec_bszSize_of_sizeFor hr (sizeFor_dolbyE_constant _ hmem hne hsize)

/-- The sequence of R204 in burst-size words. -/
theorem sizeFor_2997 {c : Cfg} {frc : Nat} (i : Nat) (h : frc = c.frc2997) :
    sizeFor c 2 frc i = .ok (([3204, 3202, 3204, 3204, 3202] : List Word32).getD i 0) := by
  rw [sizeFor_dolbyE, sizeForDolbyE, if_pos h]
  exact congrArg Except.ok (List.getD_map (l := Config.seq2997) (d := 0) (n := i) (f := BitVec.ofNat 32)).symm

/-- Settles O33: entry k mod 5 of the sequence, for every frame index; its period and its sum by evaluation. -/
theorem sizesAt2997FollowTheSequence : Obligations.SizesAt2997FollowTheSequence :=
  ⟨fun _ _ _ hr hfrc => exec_bszSize_of_sizeFor hr (sizeFor_2997 _ hfrc), rfl, rfl⟩

end Sys2Proof.Laws

/-!
The bit unpacker's three operations (41_bit_unpacker.md): what BU.INIT loads (R131), the fields that BU.UNPACK delivers bit by
bit (R133 to R136), and the words that BU.UNKEY XORs, twice for nothing (R138 to R140).
-/

namespace Sys2Proof.Laws

open Sys2Proof.Machine Memory

/-! ## BU.INIT (R131) -/

theorem exec_buInit {s : State} {depth len : Word32} {m : DataMode} (hr : Running s) (hd : depth.toNat = m.bits)
    (hlen : len.toNat ≤ s.cfg.debufCap) : exec (.buInit depth len) s =
      .next { s with bu := (loadUnpacker s m len).bu, debuf := (loadUnpacker s m len).debuf, result := 0 } := by
  have hbody : bodyOf (.buInit depth len) s =
      .ok { s with bu := (loadUnpacker s m len).bu, debuf := (loadUnpacker s m len).debuf, result := 0 } := by
    simp only [bodyOf, buInitBody, depthOf_eq_some.2 hd, if_neg (Nat.not_lt.2 hlen)]
  exact exec_next_of_body hr hbody

/-- Settles O14: the unit that BU.INIT commits is the loaded one. -/
theorem buInitLoadsTheFrame : Obligations.BuInitLoadsTheFrame :=
  fun _ _ len m hr hwf hd hlen => ⟨_, exec_buInit hr hd hlen, rfl, read_loadUnpacker hwf m len⟩

/-! ## BU.UNPACK (R134 to R136) -/

/-- The buffer exists in DEBUF. -/
theorem debufHolds_of_le {s : State} (hlen : s.bu.len.toNat ≤ s.cfg.debufCap) :
    s.debufHolds s.bu.len.toNat = true :=
  inMemory_of_le (by rw [Nat.zero_add]; exact hlen)

/-- The items of an unpack: field `k` from position `p + k * w` (R136). -/
def items (d : Memory 32) (n p w count : Nat) : List Word32 :=
  (List.range count).map fun k => BitVec.ofNat 32 (fieldAt d n (p + k * w) w)

/-- The state after an unpack of `n` fields of `w` bits (R135). -/
def unpackedState (s : State) (m : DataMode) (n w : Nat) : State :=
  let out := items s.debuf m.bits (cursorPos m.bits s.bu) w n
  { s with
    bu := setCursor m.bits (cursorPos m.bits s.bu + n * w) s.bu
    buout := s.buout.writeList 0 out
    result := out.headD 0 }

section Unpack

variable {s : State} {n w : Word32} {m : DataMode} (hr : Running s) (hd : s.bu.depth = some m) (hw : 1 ≤ w.toNat)
  (hw' : w.toNat ≤ 32) (hn : n.toNat ≤ s.cfg.buoutCap) (hlen : s.bu.len.toNat ≤ s.cfg.debufCap)

include hr hd hw hw' hn hlen

theorem exec_buUnpack_fits (hfits : cursorPos m.bits s.bu + n.toNat * w.toNat ≤ s.bu.len.toNat * m.bits) :
    exec (.buUnpack n w) s = .next (unpackedState s m n.toNat w.toNat) := by
  have hwidth : ¬(w.toNat < 1 ∨ 32 < w.toNat) := by omega
  have hbody : bodyOf (.buUnpack n w) s = .ok (unpackedState s m n.toNat w.toNat) := by
    simp only [bodyOf, buUnpackBody, hd, if_neg hwidth, if_neg (Nat.not_lt.2 hn), debufHolds_of_le hlen, reduceCtorEq,
      if_false, unpackFn, if_neg (Nat.not_lt.2 hfits)]
    rfl
  exact exec_next_of_body hr hbody

theorem exec_buUnpack_short (hshort : s.bu.len.toNat * m.bits < cursorPos m.bits s.bu + n.toNat * w.toNat) :
    exec (.buUnpack n w) s = .next (raisedState s 1 (cursorPos m.bits s.bu)) := by
  have hwidth : ¬(w.toNat < 1 ∨ 32 < w.toNat) := by omega
  have hbody : bodyOf (.buUnpack n w) s = .error (.raised .readError (cursorPos m.bits s.bu)) := by
    simp only [bodyOf, buUnpackBody, hd, if_neg hwidth, if_neg (Nat.not_lt.2 hn), debufHolds_of_le hlen, reduceCtorEq,
      if_false, unpackFn, if_pos hshort]
  exact exec_raised_of_body hr hbody

end Unpack

theorem getD_items (d : Memory 32) (n p w count k : Nat) (v : Word32) : (items d n p w count).getD k v =
    if k < count then BitVec.ofNat 32 (fieldAt d n (p + k * w) w) else v := by
  split
  · rename_i hk; simp [items, hk]
  · rename_i hk; simp [items, hk]

theorem headD_items (d : Memory 32) (n p w count : Nat) :
    (items d n p w count).headD 0 = if count = 0 then 0 else BitVec.ofNat 32 (fieldAt d n p w) := by
  cases count with
  | zero => rfl
  | succ count => simp [items, List.range_succ_eq_map]

/-- Bit `i` of an item: the stream's bits, the most significant first (R133). -/
theorem getLsbD_item (d : Memory 32) (n p w : Nat) {i : Nat} (hi : i < 32) :
    (BitVec.ofNat 32 (fieldAt d n p w)).getLsbD i = (decide (i < w) && streamBit d n (p + (w - 1 - i))) := by
  rw [BitVec.getLsbD_ofNat, fieldAt_testBit, decide_eq_true hi, Bool.true_and]

theorem read_unpackedState_buout {s : State} (hwf : s.buout.wf) (m : DataMode) (n w k : Nat) :
    (unpackedState s m n w).buout.read k =
      if k < n then BitVec.ofNat 32 (fieldAt s.debuf m.bits (cursorPos m.bits s.bu + k * w) w) else s.buout.read k := by
  rw [unpackedState, read_writeList hwf, if_pos (Nat.zero_le k), getD_items]
  rfl

theorem unpackedState_result {s : State} (hwf : s.buout.wf) (m : DataMode) (n w : Nat) :
    (unpackedState s m n w).result = if n = 0 then 0 else (unpackedState s m n w).buout.read 0 := by
  rw [read_unpackedState_buout hwf, Nat.zero_mul, Nat.add_zero, unpackedState, headD_items]
  split
  · rfl
  · rename_i hpos
    rw [if_pos (Nat.pos_of_ne_zero hpos)]

/-- Settles O15: where the fields fit, BUOUT holds the items of `UnpackFn` and the cursor stands behind them; where they do
not, `UnpackFn` fails. -/
theorem buUnpackReadsTheFields : Obligations.BuUnpackReadsTheFields := by
  intro s n w m hr hwf hd hw hw' hn hlen N P
  refine ⟨exec_buUnpack_short hr hd hw hw' hn hlen, fun hfits => ⟨unpackedState s m n.toNat w.toNat,
    exec_buUnpack_fits hr hd hw hw' hn hlen hfits, rfl, cursorPos_setCursor m s.bu hfits, bp_setCursor m _ s.bu,
    fun k i hk hi => ?item, fun a ha => ?rest, unpackedState_result hwf m _ _⟩⟩
  case item =>
    rw [read_unpackedState_buout hwf, if_pos hk, getLsbD_item _ _ _ _ hi]
    rfl
  case rest => rw [read_unpackedState_buout hwf, if_neg (Nat.not_lt.2 ha)]

/-! ## BU.UNKEY (R138, R139) -/

/-- The state after an unkey of `n` words (R139). -/
def unkeyedState (s : State) (m : DataMode) (key n : Nat) : State :=
  { s with debuf := xorWords s.debuf (unkeyStart m s.bu) (lj (key % 2 ^ m.bits) m.bits) n, result := 0 }

section Unkey

variable {s : State} {key n : Word32} {m : DataMode} (hr : Running s) (hd : s.bu.depth = some m)
  (hholds : s.debufHolds s.bu.len.toNat = true)

include hr hd hholds

theorem exec_buUnkey_fits (hfits : unkeyStart m s.bu + n.toNat ≤ s.bu.len.toNat) :
    exec (.buUnkey key n) s = .next (unkeyedState s m key.toNat n.toNat) := by
  have hbody : bodyOf (.buUnkey key n) s = .ok (unkeyedState s m key.toNat n.toNat) := by
    simp only [bodyOf, buUnkeyBody, hd, hholds, reduceCtorEq, if_false, unkeyFn, if_neg (Nat.not_lt.2 hfits)]
    rfl
  exact exec_next_of_body hr hbody

theorem exec_buUnkey_short (hshort : s.bu.len.toNat < unkeyStart m s.bu + n.toNat) :
    exec (.buUnkey key n) s = .next (raisedState s 1 (unkeyStart m s.bu)) := by
  have hbody : bodyOf (.buUnkey key n) s = .error (.raised .readError (unkeyStart m s.bu)) := by
    simp only [bodyOf, buUnkeyBody, hd, hholds, reduceCtorEq, if_false, unkeyFn, if_pos hshort]
  exact exec_raised_of_body hr hbody

end Unkey

theorem lj_eq_mul (v n : Nat) : lj v n = BitVec.ofNat 32 (v * 2 ^ (32 - n)) := by
  rw [lj, Nat.shiftLeft_eq]

/-- Settles O16: the words from `start` are XORed where they end inside the buffer, else `UnkeyFn` fails. -/
theorem buUnkeyXorsTheKey : Obligations.BuUnkeyXorsTheKey := by
  intro s key n m hr hwf hd hbp hlen start
  have hholds := debufHolds_of_le hlen
  have hstart : start = unkeyStart m s.bu := (unkeyStart_eq m s.bu hbp).symm
  rw [hstart, ← lj_eq_mul]
  exact ⟨fun hfits => ⟨_, exec_buUnkey_fits hr hd hholds hfits, rfl, read_xorWords hwf _ _⟩,
    exec_buUnkey_short hr hd hholds⟩

/-! ## The self-inverse of BU.UNKEY (R140) -/

theorem xorWords_xorWords {d : Memory 32} (h : d.wf) (start n : Nat) (v : Container) :
    xorWords (xorWords d start v n) start v n = d := by
  have hwf := wf_xorWords (v := v) h start n
  refine ext_of_read (wf_xorWords hwf start n) h fun a => ?_
  rw [read_xorWords hwf, read_xorWords h]
  split
  · rw [BitVec.xor_assoc, BitVec.xor_self, BitVec.xor_zero]
  · rfl

/-- A commit of BU.UNKEY passed its tests, that of the bound on DEBUF among them. -/
theorem debufHolds_of_buUnkeyBody_ok {s t : State} {key n : Word32} (h : buUnkeyBody key n s = .ok t) :
    s.debufHolds s.bu.len.toNat = true := by
  unfold buUnkeyBody at h
  split at h
  · cases h
  · split at h
    · cases h
    · rename_i hholds
      simpa using hholds

theorem unkeyedState_unkeyedState {s : State} (hwf : s.debuf.wf) (m : DataMode) (key n : Nat) :
    unkeyedState (unkeyedState s m key n) m key n = { s with result := 0 } := by
  simp only [unkeyedState, xorWords_xorWords hwf]

/-- Settles O17: the second run finds the cursor of the first, and XORs the same words with the same key. -/
theorem unkeyTwiceRestores : Obligations.UnkeyTwiceRestores := by
  intro s t key n hwf hr h hrt
  have hok : buUnkeyBody key n s = .ok t := bodyOf_ok_of_running h hr hrt
  have hholds := debufHolds_of_buUnkeyBody_ok hok
  obtain ⟨m, u, hd, hu, -⟩ := buUnkeyBody_ok hok
  obtain ⟨hfits, -⟩ := unkeyFn_some hu
  obtain rfl : unkeyedState s m key.toNat n.toNat = t :=
    Host.Outcome.next.inj ((exec_buUnkey_fits hr hd hholds hfits).symm.trans h)
  rw [exec_buUnkey_fits hrt hd hholds hfits, unkeyedState_unkeyedState hwf]

end Sys2Proof.Laws

/-!
The Dolby E header (43_dolby_e_header.md): the sequence of DE.PARSE as a walk over bit positions, with and without the key
(R182 to R187), the fields where R183 places them, the raises of a short frame (R188), and that a second run reads the same
(R191).
-/

namespace Sys2Proof.Laws

open Sys2Proof.Machine Memory

/-! ## Fields in terms of words (R100, R133) -/

/-- The `n`-bit word that container `k` carries, left-justified (R12). -/
def wordAt (d : Memory 32) (n k : Nat) : Nat := (d.read k).toNat / 2 ^ (32 - n)

theorem wordAt_eq_rj (d : Memory 32) (n k : Nat) : wordAt d n k = rj (d.read k) n :=
  (Nat.shiftRight_eq_div_pow _ _).symm

theorem wordAt_lt (d : Memory 32) {n : Nat} (k : Nat) (hn : n ≤ 32) : wordAt d n k < 2 ^ n := by
  rw [wordAt_eq_rj]
  exact rj_lt _ hn

theorem wordAt_congr {d d' : Memory 32} {n k : Nat} (h : d.read k = d'.read k) : wordAt d n k = wordAt d' n k := by
  rw [wordAt, h, wordAt]

theorem streamBit_eq_testBit (d : Memory 32) {n j : Nat} (k : Nat) (hn : n ≤ 32) (hj : j < n) :
    streamBit d n (k * n + j) = (wordAt d n k).testBit (n - 1 - j) := by
  have hdiv : (k * n + j) / n = k := by
    rw [Nat.mul_comm, Nat.mul_add_div (by omega), Nat.div_eq_of_lt hj, Nat.add_zero]
  have hmod : (k * n + j) % n = j := by rw [Nat.mul_comm, Nat.mul_add_mod, Nat.mod_eq_of_lt hj]
  rw [streamBit, hdiv, hmod, wordAt_eq_rj, rj, Nat.testBit_shiftRight, BitVec.testBit_toNat]
  congr 1
  omega

/-- A field that starts in word `k` and ends there or in the next one. -/
theorem fieldAt_eq_two_words (d : Memory 32) {n off nb : Nat} (k : Nat) (hn : n ≤ 32) (h : off + nb ≤ 2 * n) :
    fieldAt d n (k * n + off) nb =
      (wordAt d n k * 2 ^ n + wordAt d n (k + 1)) / 2 ^ (2 * n - off - nb) % 2 ^ nb := by
  refine Nat.eq_of_testBit_eq fun i => ?_
  rw [fieldAt_testBit, Nat.testBit_mod_two_pow, Nat.testBit_div_two_pow]
  by_cases hi : i < nb
  · rw [Nat.mul_comm (wordAt d n k), Nat.testBit_two_pow_mul_add _ (wordAt_lt d (k + 1) hn), decide_eq_true hi, Bool.true_and,
      Bool.true_and]
    by_cases hlow : i + (2 * n - off - nb) < n
    · rw [if_pos hlow, show k * n + off + (nb - 1 - i) = (k + 1) * n + (off + (nb - 1 - i) - n) by
        rw [Nat.succ_mul]; omega, streamBit_eq_testBit d _ hn (by omega)]
      congr 1
      omega
    · rw [if_neg hlow, Nat.add_assoc, streamBit_eq_testBit d _ hn (by omega)]
      congr 1
      omega
  · simp [hi]

/-- A field that lies in word `k`; what stands behind the word does not count. -/
theorem fieldAt_eq_word (d : Memory 32) {n off nb : Nat} (k : Nat) (hn : n ≤ 32) (h : off + nb ≤ n) :
    fieldAt d n (k * n + off) nb = wordAt d n k / 2 ^ (n - off - nb) % 2 ^ nb := by
  rw [fieldAt_eq_two_words d k hn (by omega), show 2 * n - off - nb = n + (n - off - nb) by omega, Nat.pow_add,
    ← Nat.div_div_eq_div_mul, Nat.mul_comm, Nat.mul_add_div (Nat.two_pow_pos n),
    Nat.div_eq_of_lt (wordAt_lt d (k + 1) hn), Nat.add_zero]

/-- The same for a field that ends before bit `e`, with the words given; the second counts only where the field comes to
it. -/
theorem fieldAt_of_words {d : Memory 32} {n off nb e k hi lo : Nat} (he : off + nb = e) (hn : n ≤ 32) (h : e ≤ 2 * n)
    (hhi : wordAt d n k = hi) (hlo : lo < 2 ^ n) (hlo' : n < e → wordAt d n (k + 1) = lo) :
    fieldAt d n (k * n + off) nb = (hi * 2 ^ n + lo) / 2 ^ (2 * n - e) % 2 ^ nb := by
  subst he
  by_cases hone : off + nb ≤ n
  · rw [fieldAt_eq_word d k hn hone, hhi, show 2 * n - (off + nb) = n + (n - off - nb) by omega, Nat.pow_add,
      ← Nat.div_div_eq_div_mul, Nat.mul_comm hi, Nat.mul_add_div (Nat.two_pow_pos n), Nat.div_eq_of_lt hlo, Nat.add_zero]
  · rw [fieldAt_eq_two_words d k hn h, hhi, hlo' (by omega), Nat.sub_sub]

/-- A field from the start of the first word on is the upper part of the two. -/
theorem fieldAt_of_words_upper {d : Memory 32} {n nb k hi lo : Nat} (hn : n ≤ 32) (h : nb ≤ 2 * n)
    (hhi : wordAt d n k = hi) (hlo : lo < 2 ^ n) (hlo' : n < nb → wordAt d n (k + 1) = lo) :
    fieldAt d n (k * n) nb = (hi * 2 ^ n + lo) / 2 ^ (2 * n - nb) := by
  have hlt : hi * 2 ^ n + lo < 2 ^ (2 * n - nb) * 2 ^ nb := by
    rw [← Nat.pow_add, Nat.sub_add_cancel h, Nat.two_mul]
    exact append_range_lt (hhi ▸ wordAt_lt d k hn) hlo
  have hfield := fieldAt_of_words (off := 0) (Nat.zero_add nb) hn h hhi hlo hlo'
  rwa [Nat.add_zero, Nat.mod_eq_of_lt (Nat.div_lt_of_lt_mul hlt)] at hfield

/-- A whole word is a field (R183). -/
theorem fieldAt_whole_word (d : Memory 32) {n : Nat} (k : Nat) (hn : n ≤ 32) :
    fieldAt d n (k * n) n = wordAt d n k := by
  have h := fieldAt_eq_word d (off := 0) k hn (Nat.le_of_eq (Nat.zero_add n))
  rwa [Nat.add_zero, Nat.sub_zero, Nat.sub_self, Nat.pow_zero, Nat.div_one, Nat.mod_eq_of_lt (wordAt_lt d k hn)] at h

/-- An item of up to 32 bits is the field's number. -/
theorem toNat_item (d : Memory 32) (n p : Nat) {w : Nat} (hw : w ≤ 32) :
    (BitVec.ofNat 32 (fieldAt d n p w)).toNat = fieldAt d n p w :=
  Nat.mod_eq_of_lt (Nat.lt_of_lt_of_le (fieldAt_lt d n p w) (Nat.pow_le_pow_right (by decide) hw))

/-- A register at least as wide as the field loses nothing of it. -/
theorem toNat_setWidth_item (d : Memory 32) (n p : Nat) {w v : Nat} (hw : w ≤ v) (hv : v ≤ 32) :
    ((BitVec.ofNat 32 (fieldAt d n p w)).setWidth v).toNat = fieldAt d n p w := by
  rw [BitVec.toNat_setWidth, toNat_item d n p (Nat.le_trans hw hv)]
  exact Nat.mod_eq_of_lt (Nat.lt_of_lt_of_le (fieldAt_lt d n p w) (Nat.pow_le_pow_right (by decide) hw))

/-! ## The steps of the sequence at a bit position (R182) -/

/-- The unit of a frame of `len` words, its cursor at bit `p`. -/
def unitAt (m : DataMode) (len : Word32) (d : Memory 32) (p : Nat) : Unpacker where
  bu := setCursor m.bits p { depth := some m, len := len, wp := 0, bp := 0 }
  debuf := d

theorem loadUnpacker_eq_unitAt (s : State) (m : DataMode) (len : Word32) :
    loadUnpacker s m len = unitAt m len (loadUnpacker s m len).debuf 0 := by
  simp [loadUnpacker, unitAt, setCursor]

section Steps

variable {m : DataMode} {len : Word32} {d : Memory 32} {p n w : Nat}

theorem cursorPos_unitAt (hp : p ≤ len.toNat * m.bits) : cursorPos m.bits (unitAt m len d p).bu = p :=
  cursorPos_setCursor m _ hp

theorem deUnpack_unitAt (hp : p + n * w ≤ len.toNat * m.bits) : deUnpack m n w (unitAt m len d p) =
    .ok (items d m.bits p w n, unitAt m len d (p + n * w)) := by
  have hpos : cursorPos m.bits (unitAt m len d p).bu = p := cursorPos_unitAt (Nat.le_of_add_right_le hp)
  have hfn : unpackFn m n w (unitAt m len d p) = some (items d m.bits p w n, unitAt m len d (p + n * w)) := by
    have hnot : ¬(unitAt m len d p).bu.len.toNat * m.bits < p + n * w := Nat.not_lt.2 hp
    simp only [unpackFn, hpos, if_neg hnot]
    rfl
  rw [deUnpack, hfn]

theorem deUnpack_unitAt_short (hp : p ≤ len.toNat * m.bits) (hshort : len.toNat * m.bits < p + n * w) :
    deUnpack m n w (unitAt m len d p) = .error (.raised .readError p) := by
  have hpos : cursorPos m.bits (unitAt m len d p).bu = p := cursorPos_unitAt hp
  rw [deUnpack, unpackFn_none.2 (by rw [hpos]; exact hshort), hpos]

theorem deField_unitAt (hp : p + w ≤ len.toNat * m.bits) : deField m w (unitAt m len d p) =
    .ok (BitVec.ofNat 32 (fieldAt d m.bits p w), unitAt m len d (p + w)) := by
  rw [deField, deUnpack_unitAt (by rwa [Nat.one_mul]), Nat.one_mul]
  exact congrArg (fun v => Except.ok (v, _)) (headD_items d m.bits p w 1)

theorem deField_unitAt_short (hp : p ≤ len.toNat * m.bits) (hshort : len.toNat * m.bits < p + w) :
    deField m w (unitAt m len d p) = .error (.raised .readError p) := by
  rw [deField, deUnpack_unitAt_short hp (by rwa [Nat.one_mul])]

theorem deUnkeyIf_unitAt {key : Nat} (hp : p ≤ len.toNat * m.bits) (hfits : ceilDiv p m.bits + n ≤ len.toNat) :
    deUnkeyIf true m key n (unitAt m len d p) =
      .ok (unitAt m len (xorWords d (ceilDiv p m.bits) (lj (key % 2 ^ m.bits) m.bits) n) p) := by
  have hstart : unkeyStart m (unitAt m len d p).bu = ceilDiv p m.bits := by rw [unkeyStart, cursorPos_unitAt hp]
  have hnot : ¬(unitAt m len d p).bu.len.toNat < ceilDiv p m.bits + n := Nat.not_lt.2 hfits
  simp only [deUnkeyIf, if_true, unkeyFn, hstart, if_neg hnot]
  rfl

theorem deUnkeyIf_unitAt_short {key : Nat} (hp : p ≤ len.toNat * m.bits) (hshort : len.toNat < ceilDiv p m.bits + n) :
    deUnkeyIf true m key n (unitAt m len d p) = .error (.raised .readError p) := by
  have hnone : unkeyFn m key n (unitAt m len d p) = none :=
    unkeyFn_none.2 (by rw [unkeyStart, cursorPos_unitAt hp]; exact hshort)
  simp only [deUnkeyIf, if_true, hnone, cursorPos_unitAt hp]

end Steps

/-! ## The sequence in three parts: up to the key flag, the key with its first pass, the rest (R182) -/

/-- Steps 6 to 10, from the revision id on. -/
def deTail (m : DataMode) (pre : List Word32) (syncf kp key : Word32) (u5 : Unpacker) :
    Except Exit (DeFields × Unpacker) := do
  let (rev, u6) ← deField m Config.deRevBits u5
  let (seg, u7) ← deField m Config.deSegBits u6
  let u8 ← deUnkeyIf (kp == 1) m key.toNat seg.toNat u7
  let (prog, u9) ← deField m Config.deProgBits u8
  let (frc, u10) ← deField m Config.deFrBits u9
  return ({ pre, syncf, kp, key, rev, seg, prog, frc }, u10)

/-- Steps 4 to 10, behind the key flag. -/
def deAfterFlag (m : DataMode) (pre : List Word32) (syncf kp : Word32) (u3 : Unpacker) :
    Except Exit (DeFields × Unpacker) := do
  let (key, u4) ← deFieldIf (kp == 1) m (deKeyBits m) u3
  let u5 ← deUnkeyIf (kp == 1) m key.toNat Config.deUnkey1Items u4
  deTail m pre syncf kp key u5

theorem deSequence_eq (m : DataMode) (u : Unpacker) : deSequence m u = (do
    let (pre, u1) ← deUnpack m Config.dePreItems m.bits u
    let (syncf, u2) ← deField m (deSyncBits m) u1
    let (kp, u3) ← deField m Config.deKeyflagBits u2
    deAfterFlag m pre syncf kp u3) := rfl

/-- The four words of the frame's own preamble. -/
def preOf (m : DataMode) (d : Memory 32) : List Word32 := items d m.bits 0 m.bits 4

/-- The sync field: word 4 but for its last bit. -/
def syncOf (m : DataMode) (d : Memory 32) : Word32 := BitVec.ofNat 32 (fieldAt d m.bits (4 * m.bits) (m.bits - 1))

/-- The key: word 5 of a keyed frame. -/
def keyOf (m : DataMode) (d : Memory 32) : Word32 := BitVec.ofNat 32 (fieldAt d m.bits (5 * m.bits) m.bits)

/-- What the unkey passes XOR into a word: the key left-justified (R102). -/
def keyMask (m : DataMode) (d : Memory 32) : Container := lj ((keyOf m d).toNat % 2 ^ m.bits) m.bits

section Sequence

variable {m : DataMode} {len : Word32} {d : Memory 32}

/-- The key flag is the last bit of word 4. -/
theorem keyFlag_eq (m : DataMode) (d : Memory 32) :
    fieldAt d m.bits (4 * m.bits + (m.bits - 1)) 1 = wordAt d m.bits 4 % 2 := by
  have hb := bits_pos m
  have hl := bits_le m
  rw [fieldAt_eq_word d 4 (by omega) (by omega), show m.bits - (m.bits - 1) - 1 = 0 by omega]
  simp

theorem le_mul_bits {k : Nat} (hk : k ≤ len.toNat) : k * m.bits ≤ len.toNat * m.bits := Nat.mul_le_mul_right _ hk

/-- The sequence comes to its fourth step when the first five words are there. -/
theorem deSequence_unitAt (h5 : 5 ≤ len.toNat) : deSequence m (unitAt m len d 0) =
    deAfterFlag m (preOf m d) (syncOf m d) (BitVec.ofNat 32 (wordAt d m.bits 4 % 2)) (unitAt m len d (5 * m.bits)) := by
  have hb := bits_pos m
  have hL : 5 * m.bits ≤ len.toNat * m.bits := le_mul_bits h5
  have hpre := deUnpack_unitAt (d := d) (p := 0) (n := 4) (w := m.bits) (show 0 + 4 * m.bits ≤ len.toNat * m.bits by omega)
  have hsync := deField_unitAt (d := d) (p := 4 * m.bits) (w := m.bits - 1)
    (show 4 * m.bits + (m.bits - 1) ≤ len.toNat * m.bits by omega)
  have hflag := deField_unitAt (d := d) (p := 4 * m.bits + (m.bits - 1)) (w := 1)
    (show 4 * m.bits + (m.bits - 1) + 1 ≤ len.toNat * m.bits by omega)
  rw [Nat.zero_add] at hpre
  rw [keyFlag_eq, show 4 * m.bits + (m.bits - 1) + 1 = 5 * m.bits by omega] at hflag
  simp only [deSequence_eq, deSyncBits, bind, Except.bind, hpre, hsync, hflag]
  rfl

/-- Without the key neither the key nor an unkey pass is a step. -/
theorem deAfterFlag_unkeyed (m : DataMode) (pre : List Word32) (syncf : Word32) (u : Unpacker) :
    deAfterFlag m pre syncf 0 u = deTail m pre syncf 0 0 u := rfl

theorem deFieldIf_true (m : DataMode) (w : Nat) (u : Unpacker) : deFieldIf true m w u = deField m w u := rfl

theorem ceilDiv_six (m : DataMode) : ceilDiv (6 * m.bits) m.bits = 6 := by cases m <;> rfl

theorem ceilDiv_seven (m : DataMode) : ceilDiv (6 * m.bits + 14) m.bits = 7 := by cases m <;> rfl

/-- The key is read when word 5 is there. -/
theorem deField_key (h6 : 6 ≤ len.toNat) : deField m (deKeyBits m) (unitAt m len d (5 * m.bits)) =
    .ok (keyOf m d, unitAt m len d (6 * m.bits)) := by
  have hL : 6 * m.bits ≤ len.toNat * m.bits := le_mul_bits h6
  have h := deField_unitAt (d := d) (p := 5 * m.bits) (w := m.bits) (show 5 * m.bits + m.bits ≤ len.toNat * m.bits by omega)
  rw [show 5 * m.bits + m.bits = 6 * m.bits by omega] at h
  exact h

/-- With the key, word 5 is read and word 6 unkeyed when both are there. -/
theorem deAfterFlag_keyed (pre : List Word32) (syncf : Word32) (h7 : 7 ≤ len.toNat) :
    deAfterFlag m pre syncf 1 (unitAt m len d (5 * m.bits)) =
      deTail m pre syncf 1 (keyOf m d) (unitAt m len (xorWords d 6 (keyMask m d) 1) (6 * m.bits)) := by
  have hunkey := deUnkeyIf_unitAt (d := d) (key := (keyOf m d).toNat) (n := 1) (le_mul_bits (m := m) (len := len)
    (k := 6) (by omega)) (by rw [ceilDiv_six]; exact h7)
  rw [ceilDiv_six] at hunkey
  simp only [deAfterFlag, bind, Except.bind, BEq.rfl, deFieldIf_true, deField_key (show 6 ≤ len.toNat by omega), hunkey]
  rfl

/-- The fields of steps 6 to 10 from bit `p`, the last two behind the second unkey pass, which leaves `d'`. -/
def tailFields (m : DataMode) (pre : List Word32) (syncf kp key : Word32) (d d' : Memory 32) (p : Nat) : DeFields where
  pre := pre
  syncf := syncf
  kp := kp
  key := key
  rev := BitVec.ofNat 32 (fieldAt d m.bits p 4)
  seg := BitVec.ofNat 32 (fieldAt d m.bits (p + 4) 10)
  prog := BitVec.ofNat 32 (fieldAt d' m.bits (p + 14) 6)
  frc := BitVec.ofNat 32 (fieldAt d' m.bits (p + 20) 4)

variable {pre : List Word32} {syncf kp key : Word32} {d' : Memory 32} {p : Nat}

/-- The tail up to its unkey step. -/
theorem deTail_unitAt (hp : p + 14 ≤ len.toNat * m.bits) : deTail m pre syncf kp key (unitAt m len d p) = (do
    let u8 ← deUnkeyIf (kp == 1) m key.toNat (fieldAt d m.bits (p + 4) 10) (unitAt m len d (p + 14))
    let (prog, u9) ← deField m 6 u8
    let (frc, u10) ← deField m 4 u9
    return ({ pre, syncf, kp, key, rev := BitVec.ofNat 32 (fieldAt d m.bits p 4),
              seg := BitVec.ofNat 32 (fieldAt d m.bits (p + 4) 10), prog, frc }, u10)) := by
  have hrev := deField_unitAt (d := d) (p := p) (w := 4) (show p + 4 ≤ len.toNat * m.bits by omega)
  have hseg := deField_unitAt (d := d) (p := p + 4) (w := 10) (show p + 4 + 10 ≤ len.toNat * m.bits by omega)
  rw [Nat.add_assoc p 4 10] at hseg
  simp only [deTail, bind, Except.bind, hrev, hseg, toNat_item d m.bits (p + 4) (show 10 ≤ 32 by decide)]

section AfterUnkey

variable (hunkey : deUnkeyIf (kp == 1) m key.toNat (fieldAt d m.bits (p + 4) 10) (unitAt m len d (p + 14)) =
  .ok (unitAt m len d' (p + 14)))

include hunkey

theorem deTail_fits (hp : p + 24 ≤ len.toNat * m.bits) : deTail m pre syncf kp key (unitAt m len d p) =
    .ok (tailFields m pre syncf kp key d d' p, unitAt m len d' (p + 24)) := by
  have hprog := deField_unitAt (d := d') (p := p + 14) (w := 6) (show p + 14 + 6 ≤ len.toNat * m.bits by omega)
  have hfrc := deField_unitAt (d := d') (p := p + 20) (w := 4) (show p + 20 + 4 ≤ len.toNat * m.bits by omega)
  rw [deTail_unitAt (by omega), hunkey]
  simp only [bind, Except.bind, hprog, Nat.add_assoc p 14 6, hfrc]
  rfl

theorem deTail_short_prog (hp : p + 14 ≤ len.toNat * m.bits) (hshort : len.toNat * m.bits < p + 20) :
    deTail m pre syncf kp key (unitAt m len d p) = .error (.raised .readError (p + 14)) := by
  have hprog := deField_unitAt_short (d := d') (w := 6) hp (show _ < p + 14 + 6 by omega)
  rw [deTail_unitAt hp, hunkey]
  simp only [bind, Except.bind, hprog]

theorem deTail_short_frc (hp : p + 20 ≤ len.toNat * m.bits) (hshort : len.toNat * m.bits < p + 24) :
    deTail m pre syncf kp key (unitAt m len d p) = .error (.raised .readError (p + 20)) := by
  have hprog := deField_unitAt (d := d') (p := p + 14) (w := 6) (show p + 14 + 6 ≤ len.toNat * m.bits by omega)
  have hfrc := deField_unitAt_short (d := d') (w := 4) hp (show _ < p + 20 + 4 by omega)
  rw [deTail_unitAt (by omega), hunkey]
  simp only [bind, Except.bind, hprog, Nat.add_assoc p 14 6, hfrc]

end AfterUnkey

theorem deTail_short_rev (hp : p ≤ len.toNat * m.bits) (hshort : len.toNat * m.bits < p + 4) :
    deTail m pre syncf kp key (unitAt m len d p) = .error (.raised .readError p) := by
  simp only [deTail, bind, Except.bind, deField_unitAt_short (d := d) (w := 4) hp hshort]

theorem deTail_short_unkey {e : Exit} (hp : p + 14 ≤ len.toNat * m.bits)
    (hunkey : deUnkeyIf (kp == 1) m key.toNat (fieldAt d m.bits (p + 4) 10) (unitAt m len d (p + 14)) = .error e) :
    deTail m pre syncf kp key (unitAt m len d p) = .error e := by
  rw [deTail_unitAt hp, hunkey]
  rfl

end Sequence

end Sys2Proof.Laws

/-!
The four statements about DE.PARSE (43_dolby_e_header.md), from the walk of its sequence over bit positions.
-/

namespace Sys2Proof.Laws

open Sys2Proof.Machine Memory

/-! ## The operation and its sequence (R181, R182, R188) -/

/-- DEBUF after the load: DEFRAME below `len`. -/
def loaded (s : State) (m : DataMode) (len : Word32) : Memory 32 := (loadUnpacker s m len).debuf

section Operation

variable {s : State} {len depth : Word32} {m : DataMode} (hr : Running s) (hd : depth.toNat = m.bits)
  (hlen : len.toNat ≤ s.cfg.debufCap)

include hr hd hlen

theorem exec_deParse_commits {f : DeFields} {u : Unpacker}
    (hseq : deSequence m (unitAt m len (loaded s m len) 0) = .ok (f, u)) : exec (.deParse len depth) s =
      .next (deWarn m f { s with bu := u.bu, debuf := u.debuf, de := deRegsOf m len f, result := f.frc }) := by
  rw [loaded, ← loadUnpacker_eq_unitAt] at hseq
  have hbody : bodyOf (.deParse len depth) s =
      .ok (deWarn m f { s with bu := u.bu, debuf := u.debuf, de := deRegsOf m len f, result := f.frc }) := by
    simp only [bodyOf, deParseBody, depthOf_eq_some.2 hd, if_neg (Nat.not_lt.2 hlen), hseq]
  exact exec_next_of_body hr hbody

theorem exec_deParse_raises {p : Nat}
    (hseq : deSequence m (unitAt m len (loaded s m len) 0) = .error (.raised .readError p)) :
    exec (.deParse len depth) s = .next (raisedState s 1 p) := by
  rw [loaded, ← loadUnpacker_eq_unitAt] at hseq
  have hbody : bodyOf (.deParse len depth) s = .error (.raised .readError p) := by
    simp only [bodyOf, deParseBody, depthOf_eq_some.2 hd, if_neg (Nat.not_lt.2 hlen), hseq]
  exact exec_raised_of_body hr hbody

end Operation

/-! ## Words of the loaded frame -/

section Words

variable {s : State} (hwf : s.debuf.wf) (m : DataMode) (len : Word32)

include hwf

theorem read_loaded (a : Nat) :
    (loaded s m len).read a = if a < len.toNat then s.deframe.read a else s.debuf.read a :=
  read_loadUnpacker hwf m len a

theorem wf_loaded : (loaded s m len).wf := wf_loadUnpacker hwf m len

theorem wordAt_loaded {len : Word32} {k : Nat} (hk : k < len.toNat) (n : Nat) :
    wordAt (loaded s m len) n k = wordAt s.deframe n k :=
  wordAt_congr (by rw [read_loaded hwf, if_pos hk])

end Words

/-! ## The header's first five words and the key -/

section FirstWords

variable (m : DataMode) (d : Memory 32)

theorem bits_le_32 : m.bits ≤ 32 := Nat.le_trans (bits_le m) (by decide)

theorem bits_ge_16 : 16 ≤ m.bits := by rcases bits_cases m with h | h | h <;> omega

theorem toNat_pre {i : Nat} (hi : i < 4) : (((preOf m d).getD i 0).setWidth 24).toNat = wordAt d m.bits i := by
  rw [preOf, getD_items, if_pos hi, Nat.zero_add, toNat_setWidth_item d m.bits _ (bits_le m) (by decide),
    fieldAt_whole_word d i (bits_le_32 m)]

theorem fieldAt_sync : fieldAt d m.bits (4 * m.bits) (m.bits - 1) = wordAt d m.bits 4 / 2 := by
  have hb := bits_pos m
  have hlt := wordAt_lt d 4 (bits_le_32 m)
  have h := fieldAt_eq_word d (off := 0) (nb := m.bits - 1) 4 (bits_le_32 m) (by omega)
  have hhalf : wordAt d m.bits 4 / 2 < 2 ^ (m.bits - 1) :=
    Nat.div_lt_of_lt_mul (by rwa [Nat.mul_comm, ← Nat.pow_succ, Nat.succ_eq_add_one, Nat.sub_add_cancel hb])
  rwa [Nat.add_zero, Nat.sub_zero, Nat.sub_sub_self hb, Nat.pow_one, Nat.mod_eq_of_lt hhalf] at h

theorem toNat_syncOf : (syncOf m d).toNat = wordAt d m.bits 4 / 2 := by
  have hl := bits_le m
  rw [syncOf, toNat_item d m.bits _ (by omega), fieldAt_sync]

theorem toNat_syncOf_setWidth : ((syncOf m d).setWidth 24).toNat = wordAt d m.bits 4 / 2 := by
  have hl := bits_le m
  rw [syncOf, toNat_setWidth_item d m.bits _ (by omega) (by decide), fieldAt_sync]

theorem toNat_keyOf : (keyOf m d).toNat = wordAt d m.bits 5 := by
  rw [keyOf, toNat_item d m.bits _ (bits_le_32 m), fieldAt_whole_word d 5 (bits_le_32 m)]

theorem toNat_keyOf_setWidth : ((keyOf m d).setWidth 24).toNat = wordAt d m.bits 5 := by
  rw [keyOf, toNat_setWidth_item d m.bits _ (bits_le m) (by decide), fieldAt_whole_word d 5 (bits_le_32 m)]

theorem keyMask_eq : keyMask m d = BitVec.ofNat 32 (wordAt d m.bits 5 * 2 ^ (32 - m.bits)) := by
  rw [keyMask, toNat_keyOf, Nat.mod_eq_of_lt (wordAt_lt d 5 (bits_le_32 m)), lj_eq_mul]

end FirstWords

/-! ## A completed DE.PARSE -/

/-- What `t` holds after a DE.PARSE of `s` that loaded `d0`, read the revision id and the segment size from `d` at bit `p`,
and the rest from `d'`. -/
structure DeParsed (s : State) (m : DataMode) (len kp key : Word32) (d0 d d' : Memory 32) (p : Nat) (t : State) : Prop where
  frame  : t = { s with stat := t.stat, bu := t.bu, de := t.de, debuf := t.debuf, result := t.result }
  de     : t.de = deRegsOf m len (tailFields m (preOf m d0) (syncOf m d0) kp key d d' p)
  result : t.result.toNat = t.de.frcode.toNat
  bu     : t.bu = (unitAt m len d' (p + 24)).bu
  debuf  : t.debuf = d'
  stat   : t.stat = if wordAt d0 m.bits 4 / 2 = deSyncExpectOf s.cfg m then s.stat
    else { s.stat with status := s.stat.status ||| 2#3, warnCount := s.stat.warnCount + 1 }

theorem deWarn_deParsed {s : State} {m : DataMode} {len kp key : Word32} {d0 d d' : Memory 32} {p : Nat} {u : Unpacker}
    (hu : u = unitAt m len d' (p + 24)) {f : DeFields} (hf : f = tailFields m (preOf m d0) (syncOf m d0) kp key d d' p) :
    DeParsed s m len kp key d0 d d' p
      (deWarn m f { s with bu := u.bu, debuf := u.debuf, de := deRegsOf m len f, result := f.frc }) := by
  subst hu hf
  have hresult : ∀ x, (BitVec.ofNat 32 (fieldAt d' m.bits x 4)).toNat =
      ((BitVec.ofNat 32 (fieldAt d' m.bits x 4)).setWidth 4).toNat := fun x => by
    rw [toNat_item d' m.bits x (by decide), toNat_setWidth_item d' m.bits x (Nat.le_refl 4) (by decide)]
  unfold deWarn
  split
  case isTrue hsync => exact ⟨rfl, rfl, hresult _, rfl, rfl, by rw [if_pos ((toNat_syncOf m d0).symm.trans hsync)]⟩
  case isFalse hsync =>
    exact ⟨rfl, rfl, hresult _, rfl, rfl, by rw [if_neg fun h => hsync ((toNat_syncOf m d0).trans h)]; rfl⟩

namespace DeParsed

variable {s t : State} {m : DataMode} {len kp key : Word32} {d0 d d' : Memory 32} {p : Nat}
  (h : DeParsed s m len kp key d0 d d' p t)

include h

theorem pre : t.de.pre0.toNat = wordAt d0 m.bits 0 ∧ t.de.pre1.toNat = wordAt d0 m.bits 1 ∧
    t.de.pre2.toNat = wordAt d0 m.bits 2 ∧ t.de.pre3.toNat = wordAt d0 m.bits 3 := by
  rw [h.de]
  exact ⟨toNat_pre m d0 (by decide), toNat_pre m d0 (by decide), toNat_pre m d0 (by decide), toNat_pre m d0 (by decide)⟩

theorem latched : t.de.valid = true ∧ t.de.bitDepth = some m ∧ t.de.frameWords = len := by
  rw [h.de]
  exact ⟨rfl, rfl, rfl⟩

theorem keyPresent : t.de.keyPresent = (kp == 1) := by rw [h.de]; rfl

theorem keyReg : t.de.key = key.setWidth 24 := by rw [h.de]; rfl

theorem syncf : t.de.syncf.toNat = wordAt d0 m.bits 4 / 2 := by rw [h.de]; exact toNat_syncOf_setWidth m d0

theorem revid : t.de.revid.toNat = fieldAt d m.bits p 4 := by
  rw [h.de]; exact toNat_setWidth_item d m.bits p (Nat.le_refl 4) (by decide)

theorem segsize : t.de.segsize.toNat = fieldAt d m.bits (p + 4) 10 := by
  rw [h.de]; exact toNat_setWidth_item d m.bits (p + 4) (Nat.le_refl 10) (by decide)

theorem progcfg : t.de.progcfg.toNat = fieldAt d' m.bits (p + 14) 6 := by
  rw [h.de]; exact toNat_setWidth_item d' m.bits (p + 14) (Nat.le_refl 6) (by decide)

theorem frcode : t.de.frcode.toNat = fieldAt d' m.bits (p + 20) 4 := by
  rw [h.de]; exact toNat_setWidth_item d' m.bits (p + 20) (Nat.le_refl 4) (by decide)

theorem cursor (hp : p + 24 ≤ len.toNat * m.bits) : t.bu.depth = some m ∧ t.bu.len = len ∧
    t.bu.wp.toNat * m.bits + t.bu.bp.toNat = p + 24 ∧ t.bu.bp.toNat < m.bits := by
  rw [h.bu]
  exact ⟨rfl, rfl, cursorPos_unitAt (d := d') hp, bp_setCursor m _ _⟩

end DeParsed

/-! ## A frame that is not keyed (R183) -/

section Unkeyed

variable {m : DataMode} {len : Word32} {d : Memory 32}

theorem deSequence_unkeyed (h5 : 5 ≤ len.toNat) (hk : wordAt d m.bits 4 % 2 = 0) : deSequence m (unitAt m len d 0) =
    deTail m (preOf m d) (syncOf m d) 0 0 (unitAt m len d (5 * m.bits)) := by
  rw [deSequence_unitAt h5, hk]
  exact deAfterFlag_unkeyed m _ _ _

theorem deUnkeyIf_unkeyed (m : DataMode) (key n : Nat) (u : Unpacker) : deUnkeyIf ((0 : Word32) == 1) m key n u = .ok u :=
  rfl

/-- Every word that a field below bit `k * N + 24` touches is in the frame. -/
theorem next_word_in {k : Nat} (hp : k * m.bits + 24 ≤ len.toNat * m.bits) (hN : m.bits < 24) : k + 1 < len.toNat := by
  refine Nat.lt_of_mul_lt_mul_right (a := m.bits) ?_
  rw [Nat.succ_mul]
  omega

theorem word_in {k : Nat} (hp : k * m.bits + 24 ≤ len.toNat * m.bits) : k < len.toNat :=
  Nat.lt_of_mul_lt_mul_right (a := m.bits) (by omega)

end Unkeyed

/-- Settles O18: the tail begins at word 5; its fields lie in words 5 and 6, which the load took from DEFRAME. -/
theorem deParseReadsAnUnkeyedHeader : Obligations.DeParseReadsAnUnkeyedHeader := by
  intro s len depth m hr hwf hd hlen N word two hk hp
  have h5 : 5 < len.toNat := word_in hp
  have hN := bits_le_32 m
  have h16 := bits_ge_16 m
  have hword : ∀ k, k < len.toNat → wordAt (loaded s m len) m.bits k = word k := fun k hk => wordAt_loaded hwf m hk _
  have hseq := deSequence_unkeyed (m := m) (len := len) (d := loaded s m len) (Nat.le_of_lt h5)
    (by rw [hword 4 (by omega)]; exact hk)
  rw [deTail_fits (deUnkeyIf_unkeyed m _ _ _) hp] at hseq
  have h : DeParsed s m len 0 0 (loaded s m len) (loaded s m len) (loaded s m len) (5 * m.bits) _ :=
    deWarn_deParsed rfl rfl
  have hlo : word 6 < 2 ^ m.bits := wordAt_lt s.deframe 6 hN
  have hlo' : ∀ e, e ≤ 24 → m.bits < e → wordAt (loaded s m len) m.bits (5 + 1) = word 6 := fun e he he' =>
    hword 6 (next_word_in hp (by omega))
  have hfield : ∀ {off nb e : Nat}, off + nb = e → e ≤ 24 →
      fieldAt (loaded s m len) m.bits (5 * m.bits + off) nb = two / 2 ^ (2 * m.bits - e) % 2 ^ nb := fun he he' =>
    fieldAt_of_words he hN (by omega) (hword 5 h5) hlo (hlo' _ he')
  obtain ⟨hpre0, hpre1, hpre2, hpre3⟩ := h.pre
  obtain ⟨hdepth, hlength, hcursor, hbp⟩ := h.cursor hp
  obtain ⟨hvalid, hbits, hwords⟩ := h.latched
  refine ⟨_, exec_deParse_commits hr hd hlen hseq, h.frame, hvalid, hbits, hwords, hpre0.trans (hword 0 ?_),
    hpre1.trans (hword 1 ?_), hpre2.trans (hword 2 ?_), hpre3.trans (hword 3 ?_),
    h.syncf.trans (congrArg (· / 2) (hword 4 ?_)),
    h.keyPresent, h.keyReg,
    h.revid.trans (fieldAt_of_words_upper hN (by omega) (hword 5 h5) hlo fun h => absurd h (by omega)),
    h.segsize.trans (hfield rfl (by decide)), h.progcfg.trans (hfield rfl (by decide)),
    h.frcode.trans (hfield rfl (by decide)), h.result, hdepth, hlength, hcursor, hbp,
    fun a => (congrArg (Memory.read · a) h.debuf).trans (read_loaded hwf m len a), ?_⟩
  case refine_6 => exact h.stat.trans (by rw [hword 4 (by omega)])
  all_goals omega

/-! ## A keyed frame: both unkey passes (R183, R185, R187) -/

section Keyed

variable {m : DataMode} {len : Word32} {d : Memory 32}

/-- DEBUF behind the first pass, which covers word 6. -/
def firstPass (m : DataMode) (d : Memory 32) : Memory 32 := xorWords d 6 (keyMask m d) 1

/-- DEBUF behind the second pass, which covers `n` words from word 7 on. -/
def secondPass (m : DataMode) (d : Memory 32) (n : Nat) : Memory 32 := xorWords (firstPass m d) 7 (keyMask m d) n

/-- The segment size, read behind the first pass. -/
def segOf (m : DataMode) (d : Memory 32) : Nat := fieldAt (firstPass m d) m.bits (6 * m.bits + 4) 10

theorem read_secondPass (hwf : d.wf) (n a : Nat) : (secondPass m d n).read a =
    if 6 ≤ a ∧ a < 7 + n then d.read a ^^^ keyMask m d else d.read a := by
  rw [secondPass, firstPass, read_xorWords (wf_xorWords hwf 6 1), read_xorWords hwf]
  by_cases h6 : 6 ≤ a ∧ a < 6 + 1
  · rw [if_pos h6, if_neg (by omega), if_pos (by omega)]
  · rw [if_neg h6]
    exact if_congr (by omega) rfl rfl

theorem wordAt_xor_key {d' : Memory 32} {k : Nat} (h : d'.read k = d.read k ^^^ keyMask m d) :
    wordAt d' m.bits k = wordAt d m.bits k ^^^ wordAt d m.bits 5 := by
  have hkey := wordAt_lt d 5 (bits_le_32 m)
  have hlt : wordAt d m.bits 5 * 2 ^ (32 - m.bits) < 2 ^ 32 := by
    have hpow : 2 ^ 32 = 2 ^ m.bits * 2 ^ (32 - m.bits) := by rw [← Nat.pow_add, Nat.add_sub_cancel' (bits_le_32 m)]
    rw [hpow]
    exact Nat.mul_lt_mul_of_pos_right hkey (Nat.two_pow_pos _)
  have hmask : (keyMask m d).toNat / 2 ^ (32 - m.bits) = wordAt d m.bits 5 := by
    rw [keyMask_eq, BitVec.toNat_ofNat, Nat.mod_eq_of_lt hlt, Nat.mul_div_cancel _ (Nat.two_pow_pos _)]
  rw [wordAt, h, BitVec.toNat_xor, Nat.xor_div_two_pow, hmask]
  rfl

theorem wordAt_firstPass_six (hwf : d.wf) :
    wordAt (firstPass m d) m.bits 6 = wordAt d m.bits 6 ^^^ wordAt d m.bits 5 :=
  wordAt_xor_key (by rw [firstPass, read_xorWords hwf, if_pos (by decide)])

theorem wordAt_secondPass_six (hwf : d.wf) (n : Nat) :
    wordAt (secondPass m d n) m.bits 6 = wordAt d m.bits 6 ^^^ wordAt d m.bits 5 :=
  wordAt_xor_key (by rw [read_secondPass hwf, if_pos (by omega)])

theorem wordAt_secondPass_seven (hwf : d.wf) (n : Nat) : wordAt (secondPass m d n) m.bits 7 =
    if n = 0 then wordAt d m.bits 7 else wordAt d m.bits 7 ^^^ wordAt d m.bits 5 := by
  split
  next hn => exact wordAt_congr (by rw [read_secondPass hwf, if_neg (by omega)])
  next hn => exact wordAt_xor_key (by rw [read_secondPass hwf, if_pos (by omega)])

/-- The segment size lies inside word 6. -/
theorem segOf_eq (hwf : d.wf) :
    segOf m d = (wordAt d m.bits 6 ^^^ wordAt d m.bits 5) / 2 ^ (m.bits - 14) % 2 ^ 10 := by
  have h16 := bits_ge_16 m
  rw [segOf, fieldAt_eq_word _ 6 (bits_le_32 m) (by omega), wordAt_firstPass_six hwf, Nat.sub_sub]

theorem deSequence_keyed (h7 : 7 ≤ len.toNat) (hk : wordAt d m.bits 4 % 2 = 1) : deSequence m (unitAt m len d 0) =
    deTail m (preOf m d) (syncOf m d) 1 (keyOf m d) (unitAt m len (firstPass m d) (6 * m.bits)) := by
  rw [deSequence_unitAt (by omega), hk]
  exact deAfterFlag_keyed _ _ h7

theorem seven_words_hold_seg (h7 : 7 ≤ len.toNat) : 6 * m.bits + 14 ≤ len.toNat * m.bits := by
  have h16 := bits_ge_16 m
  have h := le_mul_bits (m := m) h7
  omega

theorem deUnkeyIf_secondPass (hfits : 7 + segOf m d ≤ len.toNat) :
    deUnkeyIf ((1 : Word32) == 1) m (keyOf m d).toNat (fieldAt (firstPass m d) m.bits (6 * m.bits + 4) 10)
      (unitAt m len (firstPass m d) (6 * m.bits + 14)) =
      .ok (unitAt m len (secondPass m d (segOf m d)) (6 * m.bits + 14)) := by
  have h := deUnkeyIf_unitAt (d := firstPass m d) (key := (keyOf m d).toNat) (n := segOf m d)
    (seven_words_hold_seg (m := m) (len := len) (by omega)) (by rw [ceilDiv_seven]; exact hfits)
  rwa [ceilDiv_seven] at h

end Keyed

/-- Settles O19: the two passes together are one XOR of words 6 to 6 + seg; of these the first alone counts for the segment
size, both for the fields behind it. -/
theorem deParseReadsAKeyedHeader : Obligations.DeParseReadsAKeyedHeader := by
  intro s len depth m hr hwf hd hlen N word key word6 seg word7 two hk hfits hp
  have h6 : 6 < len.toNat := word_in hp
  have hN := bits_le_32 m
  have h16 := bits_ge_16 m
  have hd0 := wf_loaded hwf m len
  have hword : ∀ k, k < len.toNat → wordAt (loaded s m len) m.bits k = word k := fun k hk => wordAt_loaded hwf m hk _
  have hkey : wordAt (loaded s m len) m.bits 5 = key := hword 5 (by omega)
  have hseg : segOf m (loaded s m len) = seg := by rw [segOf_eq hd0, hkey, hword 6 h6]
  have hseq := deSequence_keyed (m := m) (len := len) (d := loaded s m len) h6 (by rw [hword 4 (by omega)]; exact hk)
  rw [deTail_fits (deUnkeyIf_secondPass (by omega)) hp] at hseq
  have h : DeParsed s m len 1 (keyOf m (loaded s m len)) (loaded s m len) (firstPass m (loaded s m len))
      (secondPass m (loaded s m len) (segOf m (loaded s m len))) (6 * m.bits) _ := deWarn_deParsed rfl rfl
  have hword7 : word7 < 2 ^ m.bits := by
    have h5 : word 5 < 2 ^ m.bits := wordAt_lt s.deframe 5 hN
    have h7 : word 7 < 2 ^ m.bits := wordAt_lt s.deframe 7 hN
    show (if seg = 0 then word 7 else word 7 ^^^ word 5) < 2 ^ m.bits
    split
    · exact h7
    · exact Nat.xor_lt_two_pow h7 h5
  have hhi : wordAt (firstPass m (loaded s m len)) m.bits 6 = word6 := by
    rw [wordAt_firstPass_six hd0, hkey, hword 6 h6]
  have hhi' : wordAt (secondPass m (loaded s m len) (segOf m (loaded s m len))) m.bits 6 = word6 := by
    rw [wordAt_secondPass_six hd0, hkey, hword 6 h6]
  have hlo : ∀ e, e ≤ 24 → m.bits < e →
      wordAt (secondPass m (loaded s m len) (segOf m (loaded s m len))) m.bits (6 + 1) = word7 := fun e he he' => by
    rw [wordAt_secondPass_seven hd0, hseg, hkey, hword 7 (next_word_in hp (by omega))]
  have hfield : ∀ {off nb e : Nat}, off + nb = e → e ≤ 24 →
      fieldAt (secondPass m (loaded s m len) (segOf m (loaded s m len))) m.bits (6 * m.bits + off) nb =
        two / 2 ^ (2 * m.bits - e) % 2 ^ nb := fun he he' =>
    fieldAt_of_words he hN (by omega) hhi' hword7 (hlo _ he')
  obtain ⟨hpre0, hpre1, hpre2, hpre3⟩ := h.pre
  obtain ⟨hdepth, hlength, hcursor, hbp⟩ := h.cursor hp
  obtain ⟨hvalid, hbits, hwords⟩ := h.latched
  refine ⟨_, exec_deParse_commits hr hd hlen hseq, h.frame, hvalid, hbits, hwords, hpre0.trans (hword 0 ?_),
    hpre1.trans (hword 1 ?_), hpre2.trans (hword 2 ?_), hpre3.trans (hword 3 ?_),
    h.syncf.trans (congrArg (· / 2) (hword 4 ?_)),
    h.keyPresent, ?key,
    h.revid.trans (fieldAt_of_words_upper hN (by omega) hhi hword7 fun h => absurd h (by omega)),
    h.segsize.trans hseg, h.progcfg.trans (hfield rfl (by decide)),
    h.frcode.trans (hfield rfl (by decide)), h.result, hdepth, hlength, hcursor, hbp, ?debuf, ?stat⟩
  case key => rw [h.keyReg, toNat_keyOf_setWidth, hkey]
  case debuf =>
    intro a
    rw [h.debuf, read_secondPass hd0, hseg, keyMask_eq, hkey, read_loaded hwf]
    by_cases ha : 6 ≤ a ∧ a < 7 + seg
    · rw [if_pos ha, if_pos ha, if_pos (by omega)]
    · rw [if_neg ha, if_neg ha]
  case stat => exact h.stat.trans (by rw [hword 4 (by omega)])
  all_goals omega

/-! ## A frame too short for its header (R188) -/

section Short

variable {m : DataMode} {len : Word32} {d : Memory 32}

theorem deSequence_short_pre (h : len.toNat < 4) :
    deSequence m (unitAt m len d 0) = .error (.raised .readError 0) := by
  have hlt : len.toNat * m.bits < 4 * m.bits := Nat.mul_lt_mul_of_pos_right h (bits_pos m)
  have hpre := deUnpack_unitAt_short (d := d) (p := 0) (n := 4) (w := m.bits) (Nat.zero_le _)
    (show len.toNat * m.bits < 0 + 4 * m.bits by omega)
  simp only [deSequence_eq, bind, Except.bind, hpre]

theorem deSequence_short_sync (h : len.toNat = 4) :
    deSequence m (unitAt m len d 0) = .error (.raised .readError (4 * m.bits)) := by
  have h16 := bits_ge_16 m
  have hL : len.toNat * m.bits = 4 * m.bits := by rw [h]
  have hpre := deUnpack_unitAt (d := d) (p := 0) (n := 4) (w := m.bits) (show 0 + 4 * m.bits ≤ len.toNat * m.bits by omega)
  have hsync := deField_unitAt_short (d := d) (p := 4 * m.bits) (w := m.bits - 1) (Nat.le_of_eq hL.symm)
    (show _ < 4 * m.bits + (m.bits - 1) by omega)
  rw [Nat.zero_add] at hpre
  simp only [deSequence_eq, deSyncBits, bind, Except.bind, hpre, hsync]

variable {pre : List Word32} {syncf : Word32}

theorem deAfterFlag_short_key (h : len.toNat = 5) :
    deAfterFlag m pre syncf 1 (unitAt m len d (5 * m.bits)) = .error (.raised .readError (5 * m.bits)) := by
  have hb := bits_pos m
  have hL : len.toNat * m.bits = 5 * m.bits := by rw [h]
  have hkey : deField m (deKeyBits m) (unitAt m len d (5 * m.bits)) = .error (.raised .readError (5 * m.bits)) :=
    deField_unitAt_short (w := m.bits) (Nat.le_of_eq hL.symm) (by omega)
  simp only [deAfterFlag, bind, Except.bind, BEq.rfl, deFieldIf_true, hkey]

theorem deAfterFlag_short_firstPass (h : len.toNat = 6) :
    deAfterFlag m pre syncf 1 (unitAt m len d (5 * m.bits)) = .error (.raised .readError (6 * m.bits)) := by
  have hunkey := deUnkeyIf_unitAt_short (d := d) (key := (keyOf m d).toNat) (n := 1)
    (le_mul_bits (m := m) (len := len) (k := 6) (by omega)) (by rw [ceilDiv_six, h]; decide)
  simp only [deAfterFlag, bind, Except.bind, BEq.rfl, deFieldIf_true, deField_key (show 6 ≤ len.toNat by omega), hunkey]

theorem deSequence_short_secondPass (h7 : 7 ≤ len.toNat) (hk : wordAt d m.bits 4 % 2 = 1)
    (hshort : len.toNat < 7 + segOf m d) :
    deSequence m (unitAt m len d 0) = .error (.raised .readError (6 * m.bits + 14)) := by
  have hunkey := deUnkeyIf_unitAt_short (d := firstPass m d) (key := (keyOf m d).toNat) (n := segOf m d)
    (seven_words_hold_seg (m := m) h7) (by rw [ceilDiv_seven]; exact hshort)
  rw [deSequence_keyed h7 hk]
  exact deTail_short_unkey (seven_words_hold_seg h7) hunkey

end Short

/-- Settles O20: for each length, the step of the sequence at which the stream ends. -/
theorem deParseOfAShortFrame : Obligations.DeParseOfAShortFrame := by
  intro s len depth m hr hwf hd hlen N n word seg raisesAt
  have h16 := bits_ge_16 m
  have hd0 := wf_loaded hwf m len
  have hraise : ∀ {p}, deSequence m (unitAt m len (loaded s m len) 0) = .error (.raised .readError p) → raisesAt p :=
    exec_deParse_raises hr hd hlen
  have hword : ∀ k, k < n → wordAt (loaded s m len) m.bits k = word k := fun k hk => wordAt_loaded hwf m hk _
  have hL : ∀ {k}, n = k → len.toNat * m.bits = k * m.bits := fun h => congrArg (· * m.bits) h
  have hunkeyed : 5 ≤ n → word 4 % 2 = 0 → deSequence m (unitAt m len (loaded s m len) 0) = _ := fun hn hk =>
    deSequence_unkeyed hn (by rw [hword 4 (by omega)]; exact hk)
  have hkeyed : 5 ≤ n → word 4 % 2 = 1 → deSequence m (unitAt m len (loaded s m len) 0) =
      deAfterFlag m (preOf m _) (syncOf m _) 1 (unitAt m len (loaded s m len) (5 * m.bits)) := fun hn hk => by
    rw [deSequence_unitAt hn, hword 4 (by omega), hk]
    rfl
  have hseg : 7 ≤ n → segOf m (loaded s m len) = seg := fun hn => by
    rw [segOf_eq hd0, hword 6 (by omega), hword 5 (by omega)]
  have hnopass : n = 7 → seg = 0 → word 4 % 2 = 1 → deSequence m (unitAt m len (loaded s m len) 0) = _ ∧
      deUnkeyIf _ m _ _ _ = _ := fun hn hs hk =>
    ⟨deSequence_keyed (Nat.le_of_eq hn.symm) (by rw [hword 4 (by omega)]; exact hk),
     deUnkeyIf_secondPass (len := len) (by rw [hseg (by omega), hs]; exact Nat.le_of_eq hn.symm)⟩
  refine ⟨fun hn => hraise (deSequence_short_pre hn), fun hn => hraise (deSequence_short_sync hn), fun hn => hraise ?_,
    fun hk hn h => hraise ?_, fun hk hn h => hraise ?_, fun hk hn => hraise ?_, fun hk h7 hn => hraise ?_,
    fun hk hn hs h => hraise ?_, fun hk hn hs h => hraise ?_⟩
  case refine_1 =>
    have hN := hL hn
    rcases Nat.mod_two_eq_zero_or_one (word 4) with hk | hk
    · rw [hunkeyed (by omega) hk]
      exact deTail_short_rev (by omega) (by omega)
    · rw [hkeyed (by omega) hk]
      exact deAfterFlag_short_key hn
  case refine_2 =>
    have hN := hL hn
    rw [hunkeyed (by omega) hk]
    exact deTail_short_prog (deUnkeyIf_unkeyed m _ _ _) (by omega) (by omega)
  case refine_3 =>
    have hN := hL hn
    rw [hunkeyed (by omega) hk]
    exact deTail_short_frc (deUnkeyIf_unkeyed m _ _ _) (by omega) (by omega)
  case refine_4 => rw [hkeyed (by omega) hk]; exact deAfterFlag_short_firstPass hn
  case refine_5 =>
    exact deSequence_short_secondPass h7 (by rw [hword 4 (by omega)]; exact hk) (by rw [hseg h7]; exact hn)
  case refine_6 =>
    have hN := hL hn
    obtain ⟨hseq, hunkey⟩ := hnopass hn hs hk
    rw [hseq]
    exact deTail_short_prog hunkey (by omega) (by omega)
  case refine_7 =>
    have hN := hL hn
    obtain ⟨hseq, hunkey⟩ := hnopass hn hs hk
    rw [hseq]
    exact deTail_short_frc hunkey (by omega) (by omega)

/-! ## The same DE.PARSE once more (R191) -/

/-- The unit stays on its frame of `len` words: DEBUF from `len` on reads as in `d`. -/
structure KeepsAbove (m : DataMode) (len : Word32) (d : Memory 32) (u : Unpacker) : Prop where
  within : Within m len u
  wf     : u.debuf.wf
  above  : ∀ a, len.toNat ≤ a → u.debuf.read a = d.read a

section KeepsAbove

variable {m : DataMode} {len : Word32} {d : Memory 32} {u u' : Unpacker}

theorem keepsAbove_load {s : State} (hwf : s.debuf.wf) (m : DataMode) (len : Word32) :
    KeepsAbove m len s.debuf (loadUnpacker s m len) :=
  ⟨within_load s m len, wf_loadUnpacker hwf m len, fun a ha => by rw [read_loadUnpacker hwf, if_neg (Nat.not_lt.2 ha)]⟩

theorem keepsAbove_unpackFn {n w : Nat} {out : List Word32} (hu : KeepsAbove m len d u)
    (h : unpackFn m n w u = some (out, u')) : KeepsAbove m len d u' := by
  refine ⟨within_unpackFn hu.within h, wf_debuf_unpackFn hu.wf h, ?_⟩
  obtain ⟨-, -, rfl⟩ := unpackFn_some h
  exact hu.above

theorem keepsAbove_unkeyFn {k n : Nat} (hu : KeepsAbove m len d u) (h : unkeyFn m k n u = some u') :
    KeepsAbove m len d u' := by
  refine ⟨within_unkeyFn hu.within h, wf_debuf_unkeyFn hu.wf h, fun a ha => ?_⟩
  obtain ⟨hfits, rfl⟩ := unkeyFn_some h
  rw [hu.within.len_eq] at hfits
  rw [read_xorWords hu.wf, if_neg (by omega)]
  exact hu.above a ha

end KeepsAbove

/-- A load depends on DEFRAME and, behind the frame, on DEBUF. -/
theorem loadUnpacker_congr {s t : State} {m : DataMode} {len : Word32} (hs : s.debuf.wf) (ht : t.debuf.wf)
    (hdeframe : t.deframe = s.deframe) (habove : ∀ a, len.toNat ≤ a → t.debuf.read a = s.debuf.read a) :
    loadUnpacker t m len = loadUnpacker s m len := by
  have hdebuf : (loadUnpacker t m len).debuf = (loadUnpacker s m len).debuf := by
    refine ext_of_read (wf_loadUnpacker ht m len) (wf_loadUnpacker hs m len) fun a => ?_
    rw [read_loadUnpacker ht, read_loadUnpacker hs, hdeframe]
    split
    · rfl
    next ha => exact habove a (Nat.not_lt.1 ha)
  rw [loadUnpacker_eq_unitAt t, loadUnpacker_eq_unitAt s, hdebuf]

theorem deWarn_keeps_inputs (m : DataMode) (f : DeFields) (s : State) :
    (deWarn m f s).deframe = s.deframe ∧ (deWarn m f s).debuf = s.debuf ∧ (deWarn m f s).de = s.de ∧
      (deWarn m f s).result = s.result := by
  unfold deWarn
  split <;> exact ⟨rfl, rfl, rfl, rfl⟩

/-- Settles O21: the first run left DEBUF from `len` on alone, so the second loads what the first loaded and its sequence is
the same. -/
theorem deParseTwiceAgrees : Obligations.DeParseTwiceAgrees := by
  intro s t len depth hwf hr h hrt
  obtain ⟨m, f, u, hd, hlen, hseq, rfl⟩ := deParseBody_ok (bodyOf_ok_of_running h hr hrt)
  generalize hs1 : { s with bu := u.bu, debuf := u.debuf, de := deRegsOf m len f, result := f.frc } = s1 at hrt ⊢
  obtain ⟨hdeframe, hdebuf, hde, hresult⟩ := deWarn_keeps_inputs m f s1
  have hu : KeepsAbove m len s.debuf u := deSequence_keeps (KeepsAbove m len s.debuf) keepsAbove_unpackFn keepsAbove_unkeyFn
    hseq (keepsAbove_load hwf m len)
  have hload : loadUnpacker (deWarn m f s1) m len = loadUnpacker s m len := by
    refine loadUnpacker_congr hwf ?_ ?_ ?_
    · rw [hdebuf, ← hs1]; exact hu.wf
    · rw [hdeframe, ← hs1]
    · rw [hdebuf, ← hs1]; exact hu.above
  rw [← hload] at hseq
  have hagain := exec_deParse_commits hrt hd (by rw [deWarn_cfg, ← hs1]; exact hlen)
    (loadUnpacker_eq_unitAt (deWarn m f s1) m len ▸ hseq)
  refine ⟨_, hagain, ?_⟩
  generalize hs2 : { deWarn m f s1 with bu := u.bu, debuf := u.debuf, de := deRegsOf m len f, result := f.frc } = s2
  obtain ⟨-, hdebuf2, hde2, hresult2⟩ := deWarn_keeps_inputs m f s2
  rw [hde, hde2, hresult, hresult2, hdebuf, hdebuf2, deWarn_bu, deWarn_bu, ← hs2, ← hs1]
  exact ⟨rfl, rfl, rfl, fun _ => rfl⟩

end Sys2Proof.Laws

/-!
The parse loop of HDR.PARSE and HDR.PEEK (42_frame_header.md): the passes at each record, the rows of R158, the commit of
R167, and the raises of R153 to R157 and R168.
-/

namespace Sys2Proof.Laws

open Sys2Proof.Machine Memory

/-! ## The loop, pass by pass (R154) -/

section Passes

variable {s : State} {ji : Bool} {k : Nat} {v v' : ParseVars}

theorem parseLoop_again (h : parsePass s ji v = .ok (.again v')) : parseLoop s ji (k + 1) v = parseLoop s ji k v' := by
  rw [parseLoop, h]

theorem parseLoop_leave (h : parsePass s ji v = .ok (.leave v')) : parseLoop s ji (k + 1) v = .ok (some v') := by
  rw [parseLoop, h]

/-- A first timecode record that is all there is skipped (R156). -/
theorem parsePass_skips_timecode (hpos : 1 ≤ s.cfg.tcRecordWords) (h : TimecodeAt s v.p) (htc : v.tcSeen = false)
    (hl : v.p + 2 * s.cfg.tcRecordWords ≤ s.strm.esLen.toNat) :
    parsePass s ji v = .ok (.again { v with p := v.p + 2 * s.cfg.tcRecordWords, tcSeen := true }) := by
  rw [parsePass_timecode h (by omega), passTc, htc, if_neg (by decide), if_neg (by omega)]

/-- A second record of a kind, and the end of the stream behind any record, end the call (R153, R154). -/
theorem parsePass_stops (hwf : s.cfg.wellFormed = true) {stop : StopCode} (hseen : (v.tcSeen || v.found.isSome) = true)
    (h : (v.p = s.strm.esLen.toNat ∧ stop = .eos) ∨
      (v.p + 2 ≤ s.strm.esLen.toNat ∧ stop = .newslice ∧
        ((v.found.isSome = true ∧ ∃ r, AudioAt s v.p r) ∨ (v.tcSeen = true ∧ TimecodeAt s v.p)))) :
    parsePass s ji v = .ok (.leave { v with stop := stop }) := by
  rcases h with ⟨hend, rfl⟩ | ⟨hl, rfl, ⟨hf, r, ha⟩ | ⟨htc, ht⟩⟩
  · rw [parsePass, if_pos hend, if_pos hseen]
  · rw [parsePass_audio hwf ha hl, passAudio, if_pos hf]
  · rw [parsePass_timecode ht hl, passTc, if_pos htc]

section Audio

variable (hwf : s.cfg.wellFormed = true) {rev : Bool} (ha : AudioAt s v.p rev) (hf : v.found = none)

include hwf ha hf

/-- A first audio record whose header is there is decoded (R157). -/
theorem parsePass_decodes (h8 : v.p + 8 ≤ s.strm.esLen.toNat) : parsePass s ji v =
    match HeaderAt s v.p rev with
    | .error e => .error e
    | .ok hd =>
      if ji then .ok (.leave { v with p := v.p + 8, stop := .hdronly, found := some ⟨v.p, hd, []⟩ })
      else if s.strm.esLen.toNat < v.p + 2 * hd.frameWords then .error (.raised .readError v.p)
      else .ok (.again { v with
        p := v.p + 2 * hd.frameWords, found := some ⟨v.p, hd, esWords s.es rev v.p hd.frameWords⟩ }) := by
  have hno : ¬v.found.isSome = true := by rw [hf]; decide
  have hin : ¬s.strm.esLen.toNat < v.p + 2 * Config.hdrWords := Nat.not_lt.2 h8
  rw [parsePass_audio hwf ha (by omega), passAudio, if_neg hno, if_neg hin]
  rfl

theorem parsePass_takes_frame {hd : Header} (hh : HeaderAt s v.p rev = .ok hd)
    (hl : v.p + 2 * hd.frameWords ≤ s.strm.esLen.toNat) : parsePass s false v =
    .ok (.again { v with p := v.p + 2 * hd.frameWords, found := some ⟨v.p, hd, esWords s.es rev v.p hd.frameWords⟩ }) := by
  have hwhole := headerAt_whole hh
  rw [parsePass_decodes hwf ha hf (by omega), hh]
  exact if_neg (Nat.not_lt.2 hl)

theorem parsePass_peeks {hd : Header} (hh : HeaderAt s v.p rev = .ok hd) (h8 : v.p + 8 ≤ s.strm.esLen.toNat) :
    parsePass s true v = .ok (.leave { v with p := v.p + 8, stop := .hdronly, found := some ⟨v.p, hd, []⟩ }) := by
  rw [parsePass_decodes hwf ha hf h8, hh]
  rfl

end Audio

end Passes

/-! ## The end of the stream at the start (R153) -/

theorem bodyOf_header {i : Instr} (hi : i = .hdrParse ∨ i = .hdrPeek) : bodyOf i = hdrBody (justInfo i) := by
  rcases hi with rfl | rfl <;> rfl

/-- Settles O23: the first pass answers the Eof condition. -/
theorem headerOperationsReportEof : Obligations.HeaderOperationsReportEof := by
  intro s hr hend t
  have hbody : ∀ ji, hdrBody ji s = .ok t := fun ji => by
    have hpass : parsePass s ji (parseStart s) = .ok .eof := by
      have hp : (parseStart s).p = s.strm.esLen.toNat := congrArg BitVec.toNat hend
      rw [parsePass, if_pos hp]
      rfl
    rw [hdrBody, parseLoop, hpass]
    rfl
  exact ⟨exec_next_of_body hr (hbody false), exec_next_of_body hr (hbody true)⟩

/-! ## The call up to its first audio record (R158) -/

section Call

variable {s : State} (hwf : s.cfg.wellFormed = true)

/-- The variables behind the optional leading timecode record. -/
def afterLead (s : State) (lead : Bool) : ParseVars :=
  { parseStart s with p := s.strm.esPos.toNat + (if lead then 2 * s.cfg.tcRecordWords else 0), tcSeen := lead }

include hwf

theorem parseLoop_lead {ji lead : Bool} (ht : lead = true → TimecodeAt s s.strm.esPos.toNat)
    (hl : (afterLead s lead).p ≤ s.strm.esLen.toNat) :
    ∃ k, parseLoop s ji 3 (parseStart s) = parseLoop s ji (k + 2) (afterLead s lead) ∧ (lead = false → k = 1) := by
  obtain ⟨-, -, -, -, -, hpos⟩ := syncs hwf
  cases lead with
  | false => exact ⟨1, rfl, fun _ => rfl⟩
  | true => exact ⟨0, parseLoop_again (parsePass_skips_timecode hpos (ht rfl) rfl hl), nofun⟩

end Call

/-! ## The commit (R167) -/

section Commit

variable {s : State} {ji : Bool} {v : ParseVars} (hloop : parseLoop s ji 3 (parseStart s) = .ok (some v))

include hloop

theorem hdrBody_of_loop : hdrBody ji s = commitParse s ji v := by
  rw [hdrBody, hloop]

end Commit

/-- Settles O25: one record skipped, then the end of the call, with no header found. -/
theorem timecodeOnlyTimeslice : Obligations.TimecodeOnlyTimeslice := by
  intro s i e stop hi hwf hr ht he hstop
  have hl : (afterLead s true).p ≤ s.strm.esLen.toNat := by
    have he : (afterLead s true).p = e := he.symm
    rcases hstop with ⟨h, -⟩ | ⟨h, -, -⟩ <;> omega
  obtain ⟨k, hlead, -⟩ := parseLoop_lead hwf (ji := justInfo i) (fun _ => ht) hl
  have hpass : parsePass s (justInfo i) (afterLead s true) = .ok (.leave { afterLead s true with stop := stop }) :=
    parsePass_stops hwf rfl (by subst he; exact hstop.imp_right fun h => ⟨h.1, h.2.1, .inr ⟨rfl, h.2.2⟩⟩)
  have hloop := hlead.trans (parseLoop_leave hpass)
  have hconsumed : 2 * s.cfg.tcRecordWords = e - s.strm.esPos.toNat := by omega
  refine exec_next_of_body hr ?_
  rw [bodyOf_header hi, hdrBody_of_loop hloop, hconsumed, he]
  rfl

theorem commitParse_peek {s : State} {v : ParseVars} {f : Found} (hf : v.found = some f) : commitParse s true v =
    .ok { commitPosition s v with hdr := hdrRegsOf s.cfg (commitPosition s v).hdr f false, result := 1 } := by
  simp only [commitParse, hf, if_true]

section Decoded

variable {s : State} {v : ParseVars} {q : Nat} {rev : Bool} {hd : Header} (hh : HeaderAt s q rev = .ok hd)

include hh

theorem byterev_headerAt : hd.byterev = rev := (decodeHeader_ok hh).byterev

/-- The registers of a decoded header are its fields, none of them cut (R33). -/
theorem hdrRegsOf_headerAt (r : HdrRegs) (words : List Word16) (fv : Bool) : hdrRegsOf s.cfg r ⟨q, hd, words⟩ fv =
    { r with
      valid := true, kind := hd.kind, bsid := hd.bsid, fscod := hd.fscod, frmsizecod := hd.frmsizecod
      frameWords := BitVec.ofNat 16 hd.frameWords, blocks := BitVec.ofNat 3 hd.blocks, strmtyp := hd.strmtyp
      substreamid := hd.substreamid, byterev := rev, start := BitVec.ofNat 32 q, frameValid := fv } := by
  have h := hdrRegsOf_decoded (f := ⟨q, hd, words⟩) r fv hh
  rwa [byterev_headerAt hh] at h

theorem commitParse_frame (hwf : s.cfg.wellFormed = true) {words : List Word16} (hf : v.found = some ⟨q, hd, words⟩) :
    commitParse s false v =
      .ok { commitPosition s v with
        hdr := hdrRegsOf s.cfg (commitPosition s v).hdr ⟨q, hd, words⟩ true
        frame := s.frame.writeList 0 words, result := 1 } := by
  have hin : inMemory 0 hd.frameWords s.cfg.frameCap = true :=
    inMemory_of_le (by rw [Nat.zero_add]; exact (decodeHeader_legal hwf hh).fits)
  simp [commitParse, hf, hin]

end Decoded

/-- Settles O26: the pass at the header leaves the loop. -/
theorem hdrPeekStopsAfterTheHeader : Obligations.HdrPeekStopsAfterTheHeader := by
  intro s lead rev q hd hwf hr p ht hq ha hh h8
  subst hq
  obtain ⟨k, hlead, -⟩ := parseLoop_lead hwf (ji := true) ht (Nat.le_of_add_right_le h8)
  have hloop := hlead.trans (parseLoop_leave (parsePass_peeks (v := afterLead s lead) hwf ha rfl hh h8))
  refine exec_next_of_body hr ?_
  rw [bodyOf_header (.inr rfl)]
  refine (hdrBody_of_loop hloop).trans ((commitParse_peek rfl).trans ?_)
  rw [hdrRegsOf_headerAt (q := (afterLead s lead).p) hh]
  rfl

/-! ## A frame and at most one timecode record (R158) -/

section Timeslice

variable {s : State} {lead trail rev : Bool} {q : Nat} {hd : Header}

/-- The variables behind the frame. -/
def afterFrame (s : State) (lead rev : Bool) (hd : Header) : ParseVars :=
  { afterLead s lead with
    p := (afterLead s lead).p + 2 * hd.frameWords
    found := some ⟨(afterLead s lead).p, hd, esWords s.es rev (afterLead s lead).p hd.frameWords⟩ }

/-- The variables behind the optional timecode record behind the frame. -/
def afterTrail (s : State) (lead trail rev : Bool) (hd : Header) : ParseVars :=
  { afterFrame s lead rev hd with
    p := (afterFrame s lead rev hd).p + (if trail then 2 * s.cfg.tcRecordWords else 0), tcSeen := lead || trail }

variable (hwf : s.cfg.wellFormed = true) (ht : lead = true → TimecodeAt s s.strm.esPos.toNat)
  (ha : AudioAt s (afterLead s lead).p rev) (hh : HeaderAt s (afterLead s lead).p rev = .ok hd)
  (htrail : trail = true → lead = false ∧ TimecodeAt s (afterFrame s lead rev hd).p)
  (hl : (afterTrail s lead trail rev hd).p ≤ s.strm.esLen.toNat)

include hwf ht ha hh htrail hl

/-- Of the two timecode records at most one is there, so a pass is left for the record that ends the call. -/
theorem parseLoop_timeslice : ∃ k, parseLoop s false 3 (parseStart s) =
    parseLoop s false (k + 1) (afterTrail s lead trail rev hd) := by
  obtain ⟨-, -, -, -, -, hpos⟩ := syncs hwf
  have hframe : (afterFrame s lead rev hd).p ≤ s.strm.esLen.toNat := Nat.le_of_add_right_le hl
  obtain ⟨k, hlead, hk⟩ := parseLoop_lead hwf (ji := false) ht (Nat.le_of_add_right_le hframe)
  have htake := hlead.trans (parseLoop_again (k := k + 1) (parsePass_takes_frame hwf ha rfl hh hframe))
  cases trail with
  | false => exact ⟨k, htake.trans (by rw [afterTrail, Bool.or_false]; rfl)⟩
  | true =>
    obtain ⟨rfl, htc⟩ := htrail rfl
    obtain rfl := hk rfl
    exact ⟨0, htake.trans (parseLoop_again (v := afterFrame s false rev hd) (parsePass_skips_timecode hpos htc rfl hl))⟩

end Timeslice

/-- Settles O24: the passes take the frame and the timecode record, whichever comes first, and stop in front of the next
record; the commit writes the frame's words from element 0 of FRAME on. -/
theorem hdrParseConsumesATimeslice : Obligations.HdrParseConsumesATimeslice := by
  intro s lead trail rev q e hd stop hwf hfwf hr p len record fw ht hq ha hh htrail he hl hstop
  subst hq he
  obtain ⟨k, htake⟩ := parseLoop_timeslice (lead := lead) (trail := trail) hwf ht ha hh
    (fun h => ⟨(htrail h).1, (htrail h).2.2⟩) hl
  have hpass : parsePass s false (afterTrail s lead trail rev hd) =
      .ok (.leave { afterTrail s lead trail rev hd with stop := stop }) :=
    parsePass_stops hwf (Bool.or_true _) (hstop.imp_right fun h => ⟨h.1, h.2.1, h.2.2.imp_left fun ha => ⟨rfl, ha⟩⟩)
  have hloop := htake.trans (parseLoop_leave hpass)
  refine ⟨_, exec_next_of_body hr ((hdrBody_of_loop hloop).trans (commitParse_frame hh hwf rfl)), ?_, fun j => ?_⟩
  · rw [hdrRegsOf_headerAt hh]
    rfl
  · have hread := read_writeList hfwf 0 j (esWords s.es rev (afterLead s lead).p fw)
    rw [if_pos (Nat.zero_le j), Nat.sub_zero, List.getD_eq_getElem?_getD, getElem?_esWords] at hread
    refine hread.trans ?_
    split <;> rfl

/-! ## The raises of one pass (R153 to R157, R168) -/

/-- Settles O28: each short record is the raise of the pass at it. -/
theorem shortReadsRaise : Obligations.ShortReadsRaise := by
  intro s i tc fr p hi hwf hr hreach len raises
  have hraise : (∀ v : ParseVars, v.p = p → v.tcSeen = tc → v.found.isSome = fr →
      parsePass s (justInfo i) v = .error (.raised .readError p)) → raises := exec_of_pass hwf hi hr hreach
  refine ⟨fun hend => hraise ?dangling, fun htc hl ht hshort => hraise ?timecode, fun rev hfr hl ha hshort => hraise ?header,
    fun rev hd hfr hparse h8 ha hh hshort => hraise ?body⟩ <;> rintro v rfl htv hfv
  case dangling => exact parsePass_dangling hend
  case timecode =>
    rw [parsePass_timecode ht hl, passTc, if_neg (by rw [htv, htc]; decide), if_pos hshort]
  case header =>
    rw [parsePass_audio hwf ha hl, passAudio, if_neg (by rw [hfv, hfr]; decide)]
    exact if_pos hshort
  case body =>
    have hnone : v.found = none := Option.isNone_iff_eq_none.1 (Option.isSome_eq_false_iff.1 (hfv.trans hfr))
    subst hparse
    rw [parsePass_decodes hwf ha hnone h8, hh]
    exact if_pos hshort

/-- Settles O29: the error of the decoder is that of the pass, and it is one of the decoder's four. -/
theorem badHeadersRaise : Obligations.BadHeadersRaise := by
  intro s i tc rev p kind info hi hwf hr hreach h8 ha hh
  have hexec : exec i s = .next (raisedState s kind.code info) := exec_of_pass hwf hi hr hreach (by
    rintro v rfl - hfv
    have hnone : v.found = none := Option.isNone_iff_eq_none.1 (Option.isSome_eq_false_iff.1 hfv)
    rw [parsePass_decodes hwf ha hnone h8, hh])
  have hcode : kind.code ∈ [3#8, 4#8, 5#8, 9#8] := (decodeHeader_raisesOnly _ _ _ _).code_mem hh
  cases kind with
  | invalidSampleRate => exact .inl ⟨rfl, hexec⟩
  | invalidDataRate => exact .inr (.inl ⟨rfl, hexec⟩)
  | invalidBsid => exact .inr (.inr (.inl ⟨rfl, hexec⟩))
  | configError => exact .inr (.inr (.inr ⟨rfl, hexec⟩))
  | readError | syncError | eof | capacityExceeded | unsupportedContainer | illegalOp => exact absurd hcode (by decide)

end Sys2Proof.Laws

/-!
A stream whose words are all byte reversed (R61, R169): every record classifies and decodes as on the stream itself, with the
polarity inverted.
-/

namespace Sys2Proof.Laws

open Sys2Proof.Machine Memory

/-! ## Words of a byte-reversed stream -/

/-- `es'` holds the words of `es` with their two bytes exchanged. -/
def BytesExchanged (es es' : Memory 8) : Prop :=
  ∀ j, es'.read (2 * j) = es.read (2 * j + 1) ∧ es'.read (2 * j + 1) = es.read (2 * j)

section Words

variable {es es' : Memory 8} (hx : BytesExchanged es es') {p : Nat} (hp : p % 2 = 0)

include hx hp

theorem esWord_exchanged : esWord es' p = swap16 (esWord es p) := by
  obtain ⟨j, rfl⟩ : ∃ j, p = 2 * j := ⟨p / 2, by omega⟩
  rw [esWord, esWord, swap16_append, (hx j).1, (hx j).2]

theorem esWords_exchanged (rev : Bool) (n : Nat) : esWords es' (!rev) p n = esWords es rev p n := by
  refine List.map_congr_left fun i _ => ?_
  rw [esWord_exchanged hx (by omega)]
  cases rev with
  | false => exact swap16_swap16 _
  | true => rfl

end Words

/-- What the reversed word of a record announces. -/
def flipClass : WordClass → WordClass
  | .audio => .audioRev
  | .audioRev => .audio
  | .tc => .tc
  | .none => .none

theorem swap16_eq_iff {a b : Word16} : swap16 a = b ↔ a = swap16 b :=
  ⟨fun h => h ▸ (swap16_swap16 a).symm, fun h => h ▸ swap16_swap16 b⟩

theorem swap16_inj {a b : Word16} : swap16 a = swap16 b ↔ a = b := by rw [swap16_eq_iff, swap16_swap16]

theorem classify_swap16 {c : Cfg} (hwf : c.wellFormed = true) (w : Word16) :
    classify c (swap16 w) = flipClass (classify c w) := by
  obtain ⟨hne, -⟩ := syncs hwf
  have htc : (swap16 w = c.tcSync ∨ w = c.tcSync) ↔ (w = c.tcSync ∨ w = swap16 c.tcSync) := by
    rw [swap16_eq_iff, or_comm]
  simp only [classify, htc, swap16_inj, swap16_eq_iff (b := c.ac3Sync)]
  by_cases h : w = c.tcSync ∨ w = swap16 c.tcSync
  · rw [if_pos h, if_pos h]
    rfl
  rw [if_neg h, if_neg h]
  by_cases ha : w = c.ac3Sync
  · rw [if_pos ha, if_pos ha, if_neg (ha ▸ hne)]
    rfl
  · rw [if_neg ha, if_neg ha]
    split <;> rfl

/-! ## The loop on the two streams -/

/-- The same header, of the other polarity. -/
def flipFound (f : Found) : Found := { f with hdr := { f.hdr with byterev := !f.hdr.byterev } }

def flipVars (v : ParseVars) : ParseVars := { v with found := v.found.map flipFound }

def flipPass : Pass → Pass
  | .again v => .again (flipVars v)
  | .leave v => .leave (flipVars v)
  | .eof => .eof

section Loop

variable {s : State} {es : Memory 8} (hwf : s.cfg.wellFormed = true) (hx : BytesExchanged s.es es)

theorem passTc_exchanged (v : ParseVars) : passTc { s with es := es } (flipVars v) = (passTc s v).map flipPass := by
  unfold passTc
  rw [apply_ite (Except.map flipPass), apply_ite (Except.map flipPass)]
  rfl

include hx in
theorem headerAt_exchanged {p : Nat} (hp : p % 2 = 0) (rev : Bool) : HeaderAt { s with es := es } p (!rev) =
    (HeaderAt s p rev).map fun hd => { hd with byterev := !hd.byterev } := by
  unfold HeaderAt
  rw [esWords_exchanged hx hp, decodeHeader_rev _ _ _ rev]
  cases h : decodeHeader s.cfg s.conf.alt (esWords s.es rev p Config.hdrWords) rev with
  | error e => rfl
  | ok hd => rw [← (decodeHeader_ok h).byterev]; rfl

include hx in
theorem passAudio_exchanged {v : ParseVars} (hp : v.p % 2 = 0) (rev : Bool) :
    passAudio { s with es := es } false (!rev) (flipVars v) = (passAudio s false rev v).map flipPass := by
  have hfound : (flipVars v).found.isSome = v.found.isSome := Option.isSome_map
  have hhead : decodeHeader s.cfg s.conf.alt (esWords es (!rev) v.p Config.hdrWords) (!rev) = _ :=
    headerAt_exchanged hx hp rev
  unfold passAudio
  rw [hfound, apply_ite (Except.map flipPass), apply_ite (Except.map flipPass)]
  refine if_congr Iff.rfl rfl (if_congr Iff.rfl rfl ?_)
  show (match decodeHeader s.cfg s.conf.alt (esWords es (!rev) v.p Config.hdrWords) (!rev) with
    | .error e => _
    | .ok hd => _) = _
  rw [hhead, HeaderAt]
  cases decodeHeader s.cfg s.conf.alt (esWords s.es rev v.p Config.hdrWords) rev with
  | error e => rfl
  | ok hd =>
    by_cases hl : s.strm.esLen.toNat < v.p + 2 * hd.frameWords
    · simp only [Except.map, flipVars, Bool.false_eq_true, if_false, if_pos hl]
      exact if_pos hl
    · simp only [Except.map, flipVars, Bool.false_eq_true, if_false, if_neg hl, esWords_exchanged hx hp]
      rfl

include hwf hx in
theorem parsePass_exchanged {v : ParseVars} (hp : v.p % 2 = 0) :
    parsePass { s with es := es } false (flipVars v) = (parsePass s false v).map flipPass := by
  have hclass : classify s.cfg (esWord es v.p) = flipClass (classify s.cfg (esWord s.es v.p)) := by
    rw [esWord_exchanged hx hp, classify_swap16 hwf]
  have hfound : (flipVars v).found.isSome = v.found.isSome := Option.isSome_map
  unfold parsePass
  rw [hfound, apply_ite (Except.map flipPass), apply_ite (Except.map flipPass), apply_ite (Except.map flipPass)]
  refine if_congr Iff.rfl (if_congr Iff.rfl rfl rfl) (if_congr Iff.rfl rfl ?_)
  show (match classify s.cfg (esWord es v.p) with
    | .tc => passTc { s with es := es } (flipVars v)
    | .audio => passAudio { s with es := es } false false (flipVars v)
    | .audioRev => passAudio { s with es := es } false true (flipVars v)
    | .none => .error (.raised .syncError v.p)) = _
  rw [hclass]
  cases classify s.cfg (esWord s.es v.p) with
  | tc => exact passTc_exchanged v
  | audio => exact passAudio_exchanged hx hp false
  | audioRev => exact passAudio_exchanged hx hp true
  | none => rfl

theorem even_of_parsePass_again {ji : Bool} {v v' : ParseVars} (hp : v.p % 2 = 0) (h : parsePass s ji v = .ok (.again v')) :
    v'.p % 2 = 0 := by
  rcases parsePass_again h with ⟨-, -, -, rfl⟩ | ⟨-, -, rev, hd, -, -, -, rfl⟩ <;> show (_ + 2 * _) % 2 = 0 <;> omega

include hwf hx in
theorem parseLoop_exchanged : ∀ (k : Nat) {v : ParseVars} (_ : v.p % 2 = 0),
    parseLoop { s with es := es } false k (flipVars v) = (parseLoop s false k v).map (Option.map flipVars)
  | 0, _, _ => rfl
  | k + 1, v, hp => by
    rw [parseLoop, parseLoop, parsePass_exchanged hwf hx hp]
    cases h : parsePass s false v with
    | error e => rfl
    | ok pass =>
      cases pass with
      | eof | leave v' => rfl
      | again v' => exact parseLoop_exchanged k (even_of_parsePass_again hp h)

end Loop

/-! ## The commit on the two streams -/

/-- The state that HDR.PARSE of the byte-reversed stream leaves where that of the stream leaves `t`. -/
def exchanged (es : Memory 8) (t : State) : State :=
  { t with es := es, hdr := { t.hdr with byterev := if t.result = 1 then !t.hdr.byterev else t.hdr.byterev } }

section Result

variable {es : Memory 8} {r r' : Run} {t : State} (h : r = .ok t)

include h

theorem map_exchanged_of_result_zero (hz : t.result = 0) (h' : r' = .ok { t with es := es }) :
    r' = r.map (exchanged es) := by
  have hne : ¬t.result = 1 := by rw [hz]; decide
  rw [h, h', Except.map, exchanged, if_neg hne]

theorem map_exchanged_of_result_one (ho : t.result = 1)
    (h' : r' = .ok { t with es := es, hdr := { t.hdr with byterev := !t.hdr.byterev } }) : r' = r.map (exchanged es) := by
  rw [h, h', Except.map, exchanged, if_pos ho]

end Result

theorem commitParse_exchanged (s : State) (es : Memory 8) (v : ParseVars) :
    commitParse { s with es := es } false (flipVars v) = (commitParse s false v).map (exchanged es) := by
  obtain ⟨p, tc, stop, found⟩ := v
  cases found with
  | none => exact map_exchanged_of_result_zero rfl rfl rfl
  | some f =>
    by_cases hin : inMemory 0 f.hdr.frameWords s.cfg.frameCap = false
    · simp only [commitParse, flipVars, Option.map_some, flipFound, Bool.false_eq_true, if_false, if_pos hin]
      rfl
    · simp only [commitParse, flipVars, Option.map_some, flipFound, Bool.false_eq_true, if_false, if_neg hin]
      exact map_exchanged_of_result_one rfl rfl rfl

theorem hdrBody_exchanged {s : State} {es : Memory 8} (hwf : s.cfg.wellFormed = true) (hx : BytesExchanged s.es es)
    (hp : s.strm.esPos.toNat % 2 = 0) : hdrBody false { s with es := es } = (hdrBody false s).map (exchanged es) := by
  have hloop : parseLoop { s with es := es } false 3 (parseStart s) = _ :=
    parseLoop_exchanged hwf hx 3 (v := parseStart s) hp
  unfold hdrBody
  rw [show parseStart { s with es := es } = parseStart s from rfl, hloop]
  cases parseLoop s false 3 (parseStart s) with
  | error e => rfl
  | ok o =>
    cases o with
    | none => exact map_exchanged_of_result_zero rfl rfl rfl
    | some v => exact commitParse_exchanged s es v

/-- Settles O30: the loop takes the same passes on both streams, so both calls commit, or raise, alike. -/
theorem byteReversedStreamsAreNormalised : Obligations.ByteReversedStreamsAreNormalised := by
  intro s t es hwf hp hx hr h
  have hbody := hdrBody_exchanged hwf hx hp
  rw [exec_running hr] at h
  rcases finish_next h with hok | ⟨kind, info, herror, rfl⟩
  · exact exec_next_of_body (t := exchanged es t) hr (hbody.trans (congrArg (Except.map (exchanged es)) hok))
  · have hraise := exec_raised_of_body (i := .hdrParse) (s := { s with es := es }) hr
      (hbody.trans (congrArg (Except.map (exchanged es)) herror))
    have hzero : (Except.ok (s.raise kind info) : Run).map (exchanged es) = .ok { s.raise kind info with es := es } :=
      (map_exchanged_of_result_zero rfl rfl rfl).symm
    rw [hraise]
    exact congrArg Host.Outcome.next (Except.ok.inj hzero).symm

end Sys2Proof.Laws

/-!
FS.OFFER (45_frameset.md): the append and the short flush.
-/

namespace Sys2Proof.Laws

open Sys2Proof.Machine Memory

section Offer

variable {s : State} (hs : s.fs.state = .accumulating) (hv : s.hdr.valid = true) (hfv : s.hdr.frameValid = true)
  (hb : s.bsz.valid = true)

include hs hv hfv hb

theorem fsOfferBody_flushes (hc : blockCountChanges s = true) : fsOfferBody s = .ok (shortFlush s) := by
  simp [fsOfferBody, hs, hv, hfv, hb, hc]

theorem fsOfferBody_appends (hc : blockCountChanges s = false) (hx : exceedsCapacity s = false)
    (hframe : s.hdr.frameWords.toNat ≤ s.cfg.frameCap)
    (hbuf : s.fs.words + s.hdr.frameWords.toNat ≤ s.cfg.fsbufCap) : fsOfferBody s = .ok (appendFrame s) := by
  have hin : inMemory 0 s.hdr.frameWords.toNat s.cfg.frameCap = true := inMemory_of_le (by rwa [Nat.zero_add])
  simp [fsOfferBody, hs, hv, hfv, hb, hc, hx, hin, inMemory_of_le hbuf]

end Offer

/-- Settles O36: the test of the block count comes first. -/
theorem fsOfferFlushesShort : Obligations.FsOfferFlushesShort := by
  intro s hr hs hv hfv hb hn hblocks
  have hc : blockCountChanges s = true := by
    rw [blockCountChanges, decide_eq_true hn, Bool.true_and]
    exact bne_iff_ne.2 hblocks
  exact exec_next_of_body hr (fsOfferBody_flushes hs hv hfv hb hc)

theorem qualifies_iff {st : StreamType} {ss : Nat} :
    qualifies st ss = true ↔ (st = .indep ∨ st = .trans) ∧ ss = 0 := by
  simp [qualifies]

/-- Settles O35: the frame passes every test, and the append writes what the statement lists. -/
theorem fsOfferAppendsTheFrame : Obligations.FsOfferAppendsTheFrame := by
  intro s hr hwf hs hv hfv hb hblocks hsix fw hfits hframe hbuf counts
  have hx : exceedsCapacity s = false := decide_eq_false (Nat.not_lt.2 hfits)
  have hblocks' := toNat_addBlocks s.hdr hsix
  refine ⟨appendFrame s, exec_next_of_body hr
    (fsOfferBody_appends hs hv hfv hb (blockCountChanges_eq_false.2 hblocks) hx hframe hbuf), rfl, rfl, rfl,
    fun hcounts => ?counts, fun hnot => ?keeps, appendRegs_state hs, fun hn => ?first, fun hn => ?later, fun a => ?fsbuf⟩
  case counts => exact hblocks'.trans (if_pos (qualifies_iff.2 hcounts))
  case keeps => exact if_neg fun h => hnot (qualifies_iff.1 h)
  case first =>
    simp only [appendFrame_fs, appendRegs, latchFirst_first s.hdr hn]
    exact ⟨trivial, trivial, trivial, trivial⟩
  case later =>
    simp only [appendFrame_fs, appendRegs, latchFirst_later s.hdr hn]
    exact ⟨trivial, trivial, trivial, trivial⟩
  case fsbuf =>
    refine (read_writeList_readList hwf s.frame s.fs.words 0 fw a).trans ?_
    rw [Nat.zero_add]

end Sys2Proof.Laws

/-!
Burst assembly (46_burst_encode.md): what each encoder appends, word by word.
-/

namespace Sys2Proof.Laws

open Sys2Proof.Machine Memory

/-! ## Pc and the preamble (R92, R240) -/

theorem pc16_eq (s : State) {fmt : Nat} (h : fmt < 2 ^ 13) : pc16 s fmt = s.conf.streamNum.toNat * 2 ^ 13 + fmt := by
  have hstream : s.conf.streamNum.toNat < 2 ^ 3 := s.conf.streamNum.isLt
  rw [pc16, Nat.or_comm, ← Nat.shiftLeft_add_eq_or_of_lt h, Nat.shiftLeft_eq,
    show (0xFFFF : Nat) = 2 ^ 16 - 1 from rfl, Nat.and_two_pow_sub_one_eq_mod]
  exact Nat.mod_eq_of_lt (by omega)

theorem preamble_eq (s : State) (m : DataMode) (n : Nat) {fmt : Nat} (h : fmt < 2 ^ 13) : preamble s m fmt n =
    [BitVec.ofNat 32 (paOf s.cfg m * 2 ^ (32 - m.bits)), BitVec.ofNat 32 (pbOf s.cfg m * 2 ^ (32 - m.bits)),
      BitVec.ofNat 32 ((s.conf.streamNum.toNat * 2 ^ 13 + fmt) * 2 ^ 16),
      BitVec.ofNat 32 (m.bits * n * 2 ^ (32 - m.bits))] := by
  rw [preamble, pc16_eq s h, lj_eq_mul, lj_eq_mul, lj_eq_mul, lj_eq_mul]

theorem fmtIdOf_lt (c : Cfg) (k : ElemKind) : fmtIdOf c k < 2 ^ 13 := by
  cases k with
  | ac3 => exact c.fmtIdAc3.isLt
  | eac3 => exact c.fmtIdEac3.isLt

theorem fmtIdDeOf_lt (c : Cfg) (m : DataMode) : fmtIdDeOf c m < 2 ^ 13 := by
  cases m with
  | m16 => exact c.fmtIdDe16.isLt
  | m20 => exact c.fmtIdDe20.isLt
  | m24 => exact c.fmtIdDe24.isLt

/-! ## The layout of a burst: zeros, preamble, payload, zeros (R90, R103) -/

/-- A burst with `lead` zeros in front of its preamble and `tail` behind its payload. -/
def burstLayout (lead : Nat) (pre pay : List Container) (tail : Nat) : List Container :=
  zeros lead ++ pre ++ pay ++ zeros tail

section Layout

variable (lead : Nat) (pre pay : List Container) (tail : Nat)

theorem length_burstLayout : (burstLayout lead pre pay tail).length = lead + pre.length + pay.length + tail := by
  simp only [burstLayout, List.length_append, length_zeros]

theorem burstLayout_preamble : ((burstLayout lead pre pay tail).drop lead).take pre.length = pre := by
  rw [burstLayout, List.append_assoc, List.append_assoc, List.drop_append_of_le_length (by rw [length_zeros]),
    List.drop_eq_nil_of_le (by rw [length_zeros]), List.nil_append]
  exact List.take_left

variable {lead pre pay tail} in
theorem burstLayout_payload {a j : Nat} (ha : a = lead + pre.length + j) (hj : j < pay.length) :
    (burstLayout lead pre pay tail)[a]? = pay[j]? := by
  subst ha
  have hhead : (zeros lead ++ pre).length = lead + pre.length := by rw [List.length_append, length_zeros]
  rw [burstLayout, List.getElem?_append_left (by rw [List.length_append, hhead]; omega),
    List.getElem?_append_right (by rw [hhead]; omega), hhead, Nat.add_sub_cancel_left]

theorem getElem?_zeros {n j : Nat} (h : j < n) : (zeros n)[j]? = some 0 := List.getElem?_replicate_of_lt h

theorem burstLayout_zero {j : Nat} (h : j < lead ∨ lead + pre.length + pay.length ≤ j)
    (hj : j < lead + pre.length + pay.length + tail) : (burstLayout lead pre pay tail)[j]? = some 0 := by
  have hhead : (zeros lead ++ pre ++ pay).length = lead + pre.length + pay.length := by
    rw [List.length_append, List.length_append, length_zeros]
  rcases h with h | h
  · rw [burstLayout, List.append_assoc, List.append_assoc, List.getElem?_append_left (by rw [length_zeros]; exact h),
      getElem?_zeros h]
  · rw [burstLayout, List.getElem?_append_right (by rw [hhead]; exact h), hhead, getElem?_zeros (by omega)]

end Layout

/-- A word of the set, left-justified in 16 bits. -/
theorem getElem?_setPayload (s : State) {n j : Nat} (hj : j < n) :
    (setPayload s n)[j]? = some (BitVec.ofNat 32 ((s.fsbuf.read j).toNat * 2 ^ 16)) := by
  rw [setPayload, List.getElem?_map, getElem?_readList, if_pos hj, Nat.zero_add]
  exact congrArg some (lj_eq_mul _ _)

/-! ## The encoders' bursts (R241, R248, R254) -/

theorem normalBurst_eq (s : State) : normalBurst s =
    burstLayout 0 (preamble s .m16 (fmtIdOf s.cfg s.fs.format) s.fs.words) (setPayload s s.fs.words)
      (s.bsz.size.toNat - 4 - s.fs.words) := rfl

theorem alternateBurst_eq (s : State) (t : Nat) : alternateBurst s t =
    burstLayout (t - s.fs.words - 4) (preamble s .m16 (fmtIdOf s.cfg .ac3) s.fs.words) (setPayload s s.fs.words)
      (s.bsz.size.toNat - t) := rfl

theorem dolbyEBurst_eq (s : State) (m : DataMode) (len : Nat) : dolbyEBurst s m len =
    burstLayout 0 (preamble s m (fmtIdDeOf s.cfg m) (len - 4)) (s.deframe.readList 4 (len - 4))
      (s.bsz.size.toNat - len) := rfl

section SetBursts

variable {s : State} (hr : Running s) (hf : s.fs.state ≠ .accumulating) (hb : s.bsz.valid = true)
  (hpd : 16 * s.fs.words < 2 ^ 16) (hbuf : s.fs.words ≤ s.cfg.fsbufCap)

include hr hf hb hpd hbuf

theorem exec_burstEnc_commits (hfits : 4 + s.fs.words ≤ s.bsz.size.toNat) :
    exec .burstEnc s = .next (appendBurst s (normalBurst s) 16) := by
  have hin : inMemory 0 s.fs.words s.cfg.fsbufCap = true := inMemory_of_le (by rwa [Nat.zero_add])
  have hpd' : pdOverflows .m16 s.fs.words = false := pdOverflows_eq_false.2 hpd
  have hbody : bodyOf .burstEnc s = .ok (appendBurst s (normalBurst s) 16) := by
    simp only [bodyOf, burstEncBody, closedSetProblem_eq_none hf hb, if_neg (Nat.not_lt.2 hfits), hpd', hin,
      Bool.false_eq_true, if_false, Bool.true_eq_false]
  exact exec_next_of_body hr hbody

theorem exec_burstEncalt_commits {t : Nat} (hformat : s.fs.format = .ac3) (ht : altPointOf s = some t)
    (hS : t ≤ s.bsz.size.toNat) (hfits : 4 + s.fs.words ≤ t) :
    exec .burstEncalt s = .next (appendBurst s (alternateBurst s t) 16) := by
  have hin : inMemory 0 s.fs.words s.cfg.fsbufCap = true := inMemory_of_le (by rwa [Nat.zero_add])
  have hpd' : pdOverflows .m16 s.fs.words = false := pdOverflows_eq_false.2 hpd
  have hbounds : ¬(s.bsz.size.toNat < t ∨ t < 4 + s.fs.words) := by omega
  have hbody : bodyOf .burstEncalt s = .ok (appendBurst s (alternateBurst s t) 16) := by
    simp only [bodyOf, burstEncaltBody, closedSetProblem_eq_none hf hb, if_neg (not_not_intro hformat), ht, if_neg hbounds,
      hpd', hin, Bool.false_eq_true, if_false, Bool.true_eq_false]
  exact exec_next_of_body hr hbody

end SetBursts

theorem exec_burstEncde_commits {s : State} {len depth : Word32} {m : DataMode} (hr : Running s) (hd : depth.toNat = m.bits)
    (hlen : len.toNat ≤ s.cfg.debufCap) (hb : s.bsz.valid = true) (halt : s.conf.alt = false) (hfour : 4 ≤ len.toNat)
    (hfits : len.toNat ≤ s.bsz.size.toNat) (hpd : m.bits * (len.toNat - 4) < 2 ^ m.bits) :
    exec (.burstEncde len depth) s = .next (countDolbyE (appendBurst s (dolbyEBurst s m len.toNat) 32)) := by
  have hno : ¬(s.bsz.size.toNat < len.toNat ∨ pdOverflows m (len.toNat - 4) = true) := by
    rw [pdOverflows_eq_true]
    omega
  have hbody : bodyOf (.burstEncde len depth) s = .ok (countDolbyE (appendBurst s (dolbyEBurst s m len.toNat) 32)) := by
    rw [bodyOf, burstEncdeBody_of_preconditions (depthOf_eq_some.2 hd) hlen hb, if_neg (by rw [halt]; decide),
      if_neg (Nat.not_lt.2 hfour), if_neg hno]
  exact exec_next_of_body hr hbody

/-- Settles O41: the layout without leading zeros. -/
theorem burstEncAppendsTheBurst : Obligations.BurstEncAppendsTheBurst := by
  intro s hr hf hb n S fmt hfits hpd hbuf
  have hfmt : fmtIdOf s.cfg s.fs.format = fmt := by
    show _ = if s.fs.format = .ac3 then _ else _
    cases s.fs.format <;> rfl
  have hlen : (setPayload s n).length = n := length_setPayload s n
  refine ⟨normalBurst s, exec_burstEnc_commits hr hf hb hpd hbuf hfits, ?length, ?preamble, fun j hj => ?payload,
    fun j hj hS => ?zeros⟩ <;> rw [normalBurst_eq]
  case length => rw [length_burstLayout, hlen, length_preamble]; omega
  case preamble =>
    rw [← hfmt]
    exact (burstLayout_preamble 0 _ _ _).trans (preamble_eq s .m16 n (fmtIdOf_lt _ _))
  case payload =>
    exact (burstLayout_payload (show 4 + j = 0 + 4 + j by omega) (hlen.symm ▸ hj)).trans (getElem?_setPayload s hj)
  case zeros =>
    exact burstLayout_zero 0 _ _ _ (.inr (by rw [hlen, length_preamble]; omega)) (by rw [hlen, length_preamble]; omega)

/-- Settles O42: the layout with zeros in front, so that the payload ends at word `T`. -/
theorem burstEncaltAppendsTheBurst : Obligations.BurstEncaltAppendsTheBurst := by
  intro s T hr hf hb hformat hT n S hS hfits hpd hbuf
  have hlen : (setPayload s n).length = n := length_setPayload s n
  refine ⟨alternateBurst s T, exec_burstEncalt_commits hr hf hb hpd hbuf hformat hT hS hfits, ?length, ?preamble,
    fun j hj => ?payload, fun j hj hlt => ?zeros⟩ <;> rw [alternateBurst_eq]
  case length => rw [length_burstLayout, hlen, length_preamble]; omega
  case preamble => exact (burstLayout_preamble _ _ _ _).trans (preamble_eq s .m16 n (fmtIdOf_lt _ _))
  case payload =>
    exact (burstLayout_payload (show T - n + j = T - n - 4 + 4 + j by omega) (hlen.symm ▸ hj)).trans
      (getElem?_setPayload s hj)
  case zeros =>
    exact burstLayout_zero _ _ _ _ (by rw [hlen, length_preamble]; omega) (by rw [hlen, length_preamble]; omega)

/-- Settles O43: the same layout, its payload the containers of DEFRAME. -/
theorem burstEncdeAppendsTheBurst : Obligations.BurstEncdeAppendsTheBurst := by
  intro s len depth m hr hd hdeb hb halt hfour hfits N n S shift hpd
  have hlen : (s.deframe.readList 4 n).length = n := length_readList _ _ _
  refine ⟨dolbyEBurst s m len.toNat, exec_burstEncde_commits hr hd hdeb hb halt hfour hfits hpd, ?length, ?preamble,
    fun j hj => ?payload, fun j hj hS => ?zeros⟩ <;> rw [dolbyEBurst_eq]
  case length => rw [length_burstLayout, hlen, length_preamble]; omega
  case preamble => exact (burstLayout_preamble 0 _ _ _).trans (preamble_eq s m n (fmtIdDeOf_lt _ _))
  case payload =>
    have hread : (s.deframe.readList 4 n)[j]? = some (s.deframe.read (4 + j)) := by rw [getElem?_readList, if_pos hj]
    exact (burstLayout_payload (show 4 + j = 0 + 4 + j by omega) (hlen.symm ▸ hj)).trans hread
  case zeros =>
    exact burstLayout_zero 0 _ _ _ (.inr (by rw [hlen, length_preamble]; omega)) (by rw [hlen, length_preamble]; omega)

end Sys2Proof.Laws

/-!
SCAN.FIND (47_sync_scan_decode.md): the lock at the first preamble with its statistics (R271, R276, R277), and that the
statistics influence nothing (R39).
-/

namespace Sys2Proof.Laws

open Sys2Proof.Machine Memory

/-! ## The lock (R276) -/

theorem and_pcTypeMask (n : Nat) : n &&& Config.pcTypeMask = n % 2 ^ 13 :=
  Nat.and_two_pow_sub_one_eq_mod n 13

/-- The formats have 13-bit ids, so the mask leaves them as they are (R92, R94). -/
theorem classifyPc_eq (c : Cfg) (pc : Nat) (m : DataMode) : classifyPc c pc m =
    if pc % 2 ^ 13 = c.fmtIdAc3.toNat then .ac3 else if pc % 2 ^ 13 = c.fmtIdEac3.toNat then .eac3
    else if pc % 2 ^ 13 = fmtIdDeOf c m then .dolbye else .unknown := by
  have hac3 : fmtIdOf c .ac3 % 2 ^ 13 = c.fmtIdAc3.toNat := Nat.mod_eq_of_lt (fmtIdOf_lt c .ac3)
  have heac3 : fmtIdOf c .eac3 % 2 ^ 13 = c.fmtIdEac3.toNat := Nat.mod_eq_of_lt (fmtIdOf_lt c .eac3)
  simp only [classifyPc, and_pcTypeMask, hac3, heac3, Nat.mod_eq_of_lt (fmtIdDeOf_lt c m)]

/-- The statistics of a find, each register by its own condition (R277). -/
theorem statsUpdate_eq (st : StatsRegs) (p pc pd : Nat) : statsUpdate st p pc pd =
    { finds := st.finds + 1, lastpos := p, lastpar := p % 2, lastpc := pc, lastpd := pd
      nspace := if 0 < st.finds ∧ st.lastpos < p then st.nspace + 1 else st.nspace
      sum := if 0 < st.finds ∧ st.lastpos < p then st.sum + (p - st.lastpos) else st.sum
      min := if 0 < st.finds ∧ st.lastpos < p then
          (if st.nspace = 0 then p - st.lastpos else Nat.min st.min (p - st.lastpos)) else st.min
      max := if 0 < st.finds ∧ st.lastpos < p then
          (if st.nspace = 0 then p - st.lastpos else Nat.max st.max (p - st.lastpos)) else st.max
      parchg := if 0 < st.finds ∧ p % 2 ≠ st.lastpar then st.parchg + 1 else st.parchg
      pcchg := if 0 < st.finds ∧ pc ≠ st.lastpc then st.pcchg + 1 else st.pcchg
      pdchg := if 0 < st.finds ∧ pd ≠ st.lastpd then st.pdchg + 1 else st.pdchg } := by
  by_cases hfinds : 0 < st.finds
  · simp only [hfinds, true_and]
    by_cases hspaced : st.lastpos < p
    · simp only [statsUpdate, if_pos hfinds, statsSpacing, if_pos hspaced, statsChanges]
    · simp only [statsUpdate, if_pos hfinds, statsSpacing, if_neg hspaced, statsChanges]
  · simp only [hfinds, false_and, if_false, statsUpdate]

theorem exec_scanFind_locks {s : State} {q : Nat} {m : DataMode} (hr : Running s) (hpos : s.strm.pcmPos.toNat ≤ q)
    (hend : q + 3 < s.strm.pcmLen.toNat) (hq : PreambleAt s q m)
    (hfirst : ∀ j m', s.strm.pcmPos.toNat ≤ j → j < q → ¬ PreambleAt s j m') :
    exec .scanFind s = .next (scanLock s q m) := by
  have hlock := scanEnd_eq_of_first_preamble hpos (by omega) hq hfirst
  rw [if_neg (Nat.not_le.2 hend), scanEnd] at hlock
  have hbody : bodyOf .scanFind s = .ok (scanLock s q m) := by simp only [bodyOf, scanFindBody, hlock]
  exact exec_next_of_body hr hbody

/-- Settles O46: the registers that the lock at `q` writes. -/
theorem scanFindsTheFirstPreamble : Obligations.ScanFindsTheFirstPreamble := by
  intro s q m hr hpos hend hq hfirst pc pd d later spaced
  have hpc : rj (s.pcm.read (q + 2)) 16 = pc := Nat.shiftRight_eq_div_pow _ _
  have hpd : rj (s.pcm.read (q + 3)) m.bits = pd := Nat.shiftRight_eq_div_pow _ _
  rw [exec_scanFind_locks hr hpos hend hq hfirst, scanLock, hpc, hpd, statsUpdate_eq, classifyPc_eq]
  rfl

/-! ## The statistics influence no operation (R39) -/

/-- The state with other statistics. -/
def withStats (st : StatsRegs) (s : State) : State := { s with st := st }

section Bodies

variable (st : StatsRegs) (s : State)

theorem csrWrBody_withStats (reg value : Word32) :
    csrWrBody reg value (withStats st s) = (csrWrBody reg value s).map (withStats st) := by
  have hwrite : ∀ r, (withStats st s).writeReg r value = withStats st (s.writeReg r value) := fun r => by cases r <;> rfl
  unfold csrWrBody
  cases Reg.ofNumber reg.toNat with
  | none => rfl
  | some r =>
    simp only [hwrite]
    rw [apply_ite (Except.map (withStats st)), show writeProblem (withStats st s) r value = writeProblem s r value from rfl]
    cases writeProblem s r value <;> rfl

theorem buInitBody_withStats (depth len : Word32) :
    buInitBody depth len (withStats st s) = (buInitBody depth len s).map (withStats st) := by
  unfold buInitBody
  cases depthOf depth.toNat with
  | none => rfl
  | some m => rw [apply_ite (Except.map (withStats st))]; rfl

theorem buUnpackBody_withStats (n w : Word32) :
    buUnpackBody n w (withStats st s) = (buUnpackBody n w s).map (withStats st) := by
  unfold buUnpackBody
  rw [show (withStats st s).bu = s.bu from rfl, show (withStats st s).debuf = s.debuf from rfl]
  cases s.bu.depth with
  | none => rfl
  | some m =>
    dsimp only
    rw [apply_ite (Except.map (withStats st)), apply_ite (Except.map (withStats st)), apply_ite (Except.map (withStats st))]
    cases unpackFn m n.toNat w.toNat { bu := s.bu, debuf := s.debuf } <;> rfl

theorem buUnkeyBody_withStats (key n : Word32) :
    buUnkeyBody key n (withStats st s) = (buUnkeyBody key n s).map (withStats st) := by
  unfold buUnkeyBody
  rw [show (withStats st s).bu = s.bu from rfl, show (withStats st s).debuf = s.debuf from rfl]
  cases s.bu.depth with
  | none => rfl
  | some m =>
    dsimp only
    rw [apply_ite (Except.map (withStats st))]
    cases unkeyFn m key.toNat n.toNat { bu := s.bu, debuf := s.debuf } <;> rfl

theorem deWarn_withStats (m : DataMode) (f : DeFields) : deWarn m f (withStats st s) = withStats st (deWarn m f s) := by
  rw [deWarn, deWarn, apply_ite (withStats st)]
  rfl

theorem deParseBody_withStats (len depth : Word32) :
    deParseBody len depth (withStats st s) = (deParseBody len depth s).map (withStats st) := by
  unfold deParseBody
  cases depthOf depth.toNat with
  | none => rfl
  | some m =>
    dsimp only
    rw [apply_ite (Except.map (withStats st)), show loadUnpacker (withStats st s) m len = loadUnpacker s m len from rfl]
    cases deSequence m (loadUnpacker s m len) with
    | error e => rfl
    | ok r =>
      exact if_congr Iff.rfl rfl (congrArg Except.ok (deWarn_withStats st
        { s with bu := r.2.bu, debuf := r.2.debuf, de := deRegsOf m len r.1, result := r.1.frc } m r.1))

theorem parseLoop_withStats (ji : Bool) : ∀ (k : Nat) (v : ParseVars),
    parseLoop (withStats st s) ji k v = parseLoop s ji k v
  | 0, _ => rfl
  | k + 1, v => by
    rw [parseLoop, parseLoop, show parsePass (withStats st s) ji v = parsePass s ji v from rfl]
    cases parsePass s ji v with
    | error e => rfl
    | ok pass =>
      cases pass with
      | eof | leave v' => rfl
      | again v' => exact parseLoop_withStats ji k v'

theorem commitParse_withStats (ji : Bool) (v : ParseVars) :
    commitParse (withStats st s) ji v = (commitParse s ji v).map (withStats st) := by
  unfold commitParse
  cases v.found with
  | none => rfl
  | some f => dsimp only; rw [apply_ite (Except.map (withStats st)), apply_ite (Except.map (withStats st))]; rfl

theorem hdrBody_withStats (ji : Bool) : hdrBody ji (withStats st s) = (hdrBody ji s).map (withStats st) := by
  unfold hdrBody
  rw [parseLoop_withStats, show parseStart (withStats st s) = parseStart s from rfl]
  cases parseLoop s ji 3 (parseStart s) with
  | error e => rfl
  | ok o =>
    cases o with
    | none => rfl
    | some v => exact commitParse_withStats st s ji v

theorem bszSizeBody_withStats (format frc frameIndex : Word32) :
    bszSizeBody format frc frameIndex (withStats st s) = (bszSizeBody format frc frameIndex s).map (withStats st) := by
  unfold bszSizeBody
  rw [show (withStats st s).cfg = s.cfg from rfl]
  cases sizeFor s.cfg format.toNat frc.toNat (frameIndex.toNat % 5) <;> rfl

theorem fsOfferBody_withStats : fsOfferBody (withStats st s) = (fsOfferBody s).map (withStats st) := by
  unfold fsOfferBody
  simp only [apply_ite (Except.map (withStats st))]
  rfl

theorem burstEncBody_withStats : burstEncBody (withStats st s) = (burstEncBody s).map (withStats st) := by
  unfold burstEncBody
  rw [show closedSetProblem (withStats st s) = closedSetProblem s from rfl]
  cases closedSetProblem s with
  | some why => rfl
  | none => simp only [apply_ite (Except.map (withStats st))]; rfl

theorem burstEncaltBody_withStats : burstEncaltBody (withStats st s) = (burstEncaltBody s).map (withStats st) := by
  unfold burstEncaltBody
  rw [show closedSetProblem (withStats st s) = closedSetProblem s from rfl,
    show altPointOf (withStats st s) = altPointOf s from rfl]
  cases closedSetProblem s with
  | some why => rfl
  | none =>
    cases altPointOf s with
    | none => simp only [apply_ite (Except.map (withStats st))]; rfl
    | some t => simp only [apply_ite (Except.map (withStats st))]; rfl

theorem burstEncdeBody_withStats (len depth : Word32) :
    burstEncdeBody len depth (withStats st s) = (burstEncdeBody len depth s).map (withStats st) := by
  unfold burstEncdeBody
  cases depthOf depth.toNat with
  | none => rfl
  | some m => simp only [apply_ite (Except.map (withStats st))]; rfl

theorem burstDecBody_withStats : burstDecBody (withStats st s) = (burstDecBody s).map (withStats st) := by
  unfold burstDecBody
  simp only [apply_ite (Except.map (withStats st))]
  rfl

/-- The scan alone writes them, from their values before it (R277). -/
theorem scanFindBody_withStats : ∃ st', scanFindBody (withStats st s) = (scanFindBody s).map (withStats st') := by
  unfold scanFindBody
  rw [show (withStats st s).cfg = s.cfg from rfl, show (withStats st s).pcm = s.pcm from rfl,
    show (withStats st s).strm = s.strm from rfl]
  dsimp only
  cases scanLoop s.cfg s.pcm s.strm.pcmLen.toNat (s.strm.pcmLen.toNat - s.strm.pcmPos.toNat) s.strm.pcmPos.toNat with
  | eof | truncated p => exact ⟨st, rfl⟩
  | lock p m => exact ⟨(scanLock (withStats st s) p m).st, rfl⟩

end Bodies

/-- A body ends alike whatever the statistics are. -/
theorem bodyOf_withStats (st : StatsRegs) (s : State) {i : Instr} (hi : ∀ a, i ≠ .csrRd a) :
    ∃ st', bodyOf i (withStats st s) = (bodyOf i s).map (withStats st') := by
  cases i with
  | sysReset => exact ⟨s.enterReset.st, rfl⟩
  | csrRd a => exact absurd rfl (hi a)
  | csrWr reg value => exact ⟨st, csrWrBody_withStats st s reg value⟩
  | buInit depth len => exact ⟨st, buInitBody_withStats st s depth len⟩
  | buUnpack n w => exact ⟨st, buUnpackBody_withStats st s n w⟩
  | buUnkey key n => exact ⟨st, buUnkeyBody_withStats st s key n⟩
  | deParse len depth => exact ⟨st, deParseBody_withStats st s len depth⟩
  | hdrParse => exact ⟨st, hdrBody_withStats st s false⟩
  | hdrPeek => exact ⟨st, hdrBody_withStats st s true⟩
  | bszSize format frc frameIndex => exact ⟨st, bszSizeBody_withStats st s format frc frameIndex⟩
  | fsOffer => exact ⟨st, fsOfferBody_withStats st s⟩
  | fsFlush | fsClear => exact ⟨st, rfl⟩
  | burstEnc => exact ⟨st, burstEncBody_withStats st s⟩
  | burstEncalt => exact ⟨st, burstEncaltBody_withStats st s⟩
  | burstEncde len depth => exact ⟨st, burstEncdeBody_withStats st s len depth⟩
  | scanFind => exact scanFindBody_withStats st s
  | burstDec => exact ⟨st, burstDecBody_withStats st s⟩

/-- The way an operation ends, up to the statistics of its next state. -/
def EndsAlike (o o' : Host.Outcome State Fault Refusal) : Prop :=
  match o with
  | .next t => ∃ st', o' = .next { t with st := st' }
  | .fault f => o' = .fault f
  | .refused r => o' = .refused r

theorem endsAlike_finish (st st' : StatsRegs) (s : State) (r : Run) :
    EndsAlike (finish s r) (finish (withStats st s) (r.map (withStats st'))) := by
  cases r with
  | ok t => exact ⟨st', rfl⟩
  | error e =>
    cases e with
    | raised kind info => exact ⟨st, rfl⟩
    | refused why | faulted why => exact rfl

/-- Settles O50: no body reads the statistics, but SCAN.FIND for its own update. -/
theorem statisticsNeverAffectAnOperation : Obligations.StatisticsNeverAffectAnOperation := by
  intro i s st hi
  show EndsAlike (exec i s) (exec i (withStats st s))
  obtain ⟨st', hbody⟩ := bodyOf_withStats st s hi
  by_cases hreset : i = .sysReset
  · subst hreset
    exact ⟨s.enterReset.st, rfl⟩
  rw [exec_eq_runOp hreset hi, exec_eq_runOp hreset hi]
  cases hf : s.faultFlag with
  | true =>
    rw [runOp_latched hf, runOp_latched (s := withStats st s) hf]
    exact ⟨st, rfl⟩
  | false =>
    rw [runOp_clear hf, runOp_clear (s := withStats st s) hf, hbody]
    exact endsAlike_finish st st' s _

end Sys2Proof.Laws

/-!
The round trips (R261): a burst behind zero words is found under its own mode, and its payload extracted as it was encoded.
-/

namespace Sys2Proof.Laws

open Sys2Proof.Machine Memory

/-! ## Left-justified words read back (R12) -/

/-- The top `k` bits of an `n`-bit word. -/
theorem rj_lj {v n k : Nat} (hn : n ≤ 32) (hk : k ≤ n) (hv : v < 2 ^ n) : rj (lj v n) k = v >>> (n - k) := by
  have hpow : 2 ^ 32 = 2 ^ n * 2 ^ (32 - n) := by rw [← Nat.pow_add, Nat.add_sub_cancel' hn]
  have hlt : v * 2 ^ (32 - n) < 2 ^ 32 := hpow ▸ Nat.mul_lt_mul_of_pos_right hv (Nat.two_pow_pos _)
  rw [lj_eq_mul, rj, BitVec.toNat_ofNat, Nat.mod_eq_of_lt hlt, Nat.shiftRight_eq_div_pow, Nat.shiftRight_eq_div_pow,
    show 32 - k = (32 - n) + (n - k) by omega, Nat.pow_add, ← Nat.div_div_eq_div_mul,
    Nat.mul_div_cancel _ (Nat.two_pow_pos _)]

theorem rj_lj_self {v n : Nat} (hn : n ≤ 32) (hv : v < 2 ^ n) : rj (lj v n) n = v := by
  rw [rj_lj hn (Nat.le_refl n) hv, Nat.sub_self, Nat.shiftRight_zero]

theorem paOf_lt (c : Cfg) (m : DataMode) : paOf c m < 2 ^ m.bits := by
  cases m with
  | m16 => exact c.pa16.isLt
  | m20 => exact c.pa20.isLt
  | m24 => exact c.pa24.isLt

theorem pbOf_lt (c : Cfg) (m : DataMode) : pbOf c m < 2 ^ m.bits := by
  cases m with
  | m16 => exact c.pb16.isLt
  | m20 => exact c.pb20.isLt
  | m24 => exact c.pb24.isLt

/-! ## What the configuration rules out (R273, R92) -/

section WellFormed

variable {c : Cfg} (hwf : c.wellFormed = true)

include hwf

/-- A Pa is not taken for that of a narrower mode. -/
theorem hypothesisIs_pa (m : DataMode) : HypothesisIs c (lj (paOf c m) m.bits) m := by
  obtain ⟨-, -, -, h20, h24, h24'⟩ := preambles hwf
  have hself : ∀ m : DataMode, rj (lj (paOf c m) m.bits) m.bits = paOf c m := fun m =>
    rj_lj_self (bits_le_32 m) (paOf_lt c m)
  have hshort : ∀ (m : DataMode) {k : Nat}, k ≤ m.bits → rj (lj (paOf c m) m.bits) k = paOf c m >>> (m.bits - k) :=
    fun m _ hk => rj_lj (bits_le_32 m) hk (paOf_lt c m)
  cases m with
  | m16 => exact hself .m16
  | m20 => exact ⟨by rw [hshort .m20 (by decide)]; exact h20, hself .m20⟩
  | m24 =>
    exact ⟨by rw [hshort .m24 (by decide)]; exact h24, by rw [hshort .m24 (by decide)]; exact h24', hself .m24⟩

theorem not_hypothesisIs_zero (m : DataMode) : ¬HypothesisIs c 0 m := by
  obtain ⟨h16, h20, h24, -⟩ := preambles hwf
  have hne : ∀ {w : Nat} {x : BitVec w} (k : Nat), x ≠ 0 → rj 0 k ≠ x.toNat := fun {_ x} k hx h => by
    have hzero : rj 0 k = 0 := Nat.zero_shiftRight _
    exact hx (BitVec.eq_of_toNat_eq (h.symm.trans hzero))
  cases m with
  | m16 => exact hne 16 h16
  | m20 => exact fun h => hne 20 h20 h.2
  | m24 => exact fun h => hne 24 h24 h.2.2

/-- No two formats share an id. -/
theorem formatIds_ne : c.fmtIdEac3.toNat ≠ c.fmtIdAc3.toNat ∧
    ∀ m, fmtIdDeOf c m ≠ c.fmtIdAc3.toNat ∧ fmtIdDeOf c m ≠ c.fmtIdEac3.toNat := by
  obtain ⟨hpre, -⟩ := (wellFormed_iff c).1 hwf
  simp only [Cfg.preambleOk, Bool.and_eq_true, List.all_cons, List.all_nil, bne_iff_ne] at hpre
  obtain ⟨⟨-, hea⟩, ⟨h16, h16'⟩, ⟨h20, h20'⟩, ⟨h24, h24'⟩, -⟩ := hpre
  refine ⟨fun h => hea (BitVec.eq_of_toNat_eq h.symm), fun m => ?_⟩
  cases m with
  | m16 => exact ⟨fun h => h16 (BitVec.eq_of_toNat_eq h), fun h => h16' (BitVec.eq_of_toNat_eq h)⟩
  | m20 => exact ⟨fun h => h20 (BitVec.eq_of_toNat_eq h), fun h => h20' (BitVec.eq_of_toNat_eq h)⟩
  | m24 => exact ⟨fun h => h24 (BitVec.eq_of_toNat_eq h), fun h => h24' (BitVec.eq_of_toNat_eq h)⟩

end WellFormed

/-! ## A carrier with a burst (R261) -/

/-- From the cursor on PCM holds zero words, then `burst` at word `p`. -/
structure Carries (u : State) (p : Nat) (burst : List Container) : Prop where
  cursor : u.strm.pcmPos.toNat ≤ p
  zeros  : ∀ j, u.strm.pcmPos.toNat ≤ j → j < p → u.pcm.read j = 0
  room   : p + burst.length ≤ u.strm.pcmLen.toNat
  words  : ∀ j, j < burst.length → burst[j]? = some (u.pcm.read (p + j))

/-- What an encoder appended to BURSTOUT is what stands in PCM. -/
theorem carries_of_appended {s t u : State} {p : Nat} {burst : List Container} (hb : t.burstout = s.burstout ++ burst)
    (hlen : burst.length = s.bsz.size.toNat) (hpos : u.strm.pcmPos.toNat ≤ p)
    (hzeros : ∀ j, u.strm.pcmPos.toNat ≤ j → j < p → u.pcm.read j = 0)
    (hroom : p + s.bsz.size.toNat ≤ u.strm.pcmLen.toNat)
    (hwords : ∀ j, j < s.bsz.size.toNat → t.burstout[s.burstout.length + j]? = some (u.pcm.read (p + j))) :
    Carries u p burst where
  cursor := hpos
  zeros := hzeros
  room := hlen ▸ hroom
  words j hj := by
    rw [← hwords j (hlen ▸ hj), hb, List.getElem?_append_right (Nat.le_add_right _ _), Nat.add_sub_cancel_left]

section Decode

variable {s u : State} {p fmt n tail : Nat} {m : DataMode} {pay : List Container}
  (h : Carries u p (burstLayout 0 (preamble s m fmt n) pay tail)) (hn : pay.length = n)

include h

/-- The four words of the preamble. -/
theorem carries_preamble : u.pcm.read p = lj (paOf s.cfg m) m.bits ∧ u.pcm.read (p + 1) = lj (pbOf s.cfg m) m.bits ∧
    u.pcm.read (p + 2) = lj (pc16 s fmt) 16 ∧ u.pcm.read (p + 3) = lj (m.bits * n) m.bits := by
  have hlen := length_burstLayout 0 (preamble s m fmt n) pay tail
  have hword : ∀ j, j < 4 → (preamble s m fmt n)[j]? = some (u.pcm.read (p + j)) := fun j hj => by
    rw [← h.words j (by rw [hlen, length_preamble]; omega), burstLayout, List.append_assoc, List.append_assoc,
      show zeros 0 = [] from rfl, List.nil_append, List.getElem?_append_left hj]
  exact ⟨(Option.some.inj (hword 0 (by decide))).symm, (Option.some.inj (hword 1 (by decide))).symm,
    (Option.some.inj (hword 2 (by decide))).symm, (Option.some.inj (hword 3 (by decide))).symm⟩

variable (hwf : s.cfg.wellFormed = true) (hcfg : u.cfg = s.cfg)

include hwf hcfg in
theorem carries_first_preamble : PreambleAt u p m ∧ ∀ j m', u.strm.pcmPos.toNat ≤ j → j < p → ¬PreambleAt u j m' := by
  obtain ⟨hpa, hpb, -, -⟩ := carries_preamble h
  refine ⟨?_, fun j m' hj hlt hm => ?_⟩
  · rw [PreambleAt, hpa, hpb, hcfg]
    exact ⟨hypothesisIs_pa hwf m, rj_lj_self (bits_le_32 m) (pbOf_lt s.cfg m)⟩
  · rw [PreambleAt, h.zeros j hj hlt, hcfg] at hm
    exact not_hypothesisIs_zero hwf m' hm.1

include hn

theorem carries_payload : u.pcm.readList (p + 4) n = pay := by
  have hlen := length_burstLayout 0 (preamble s m fmt n) pay tail
  refine List.ext_getElem? fun j => ?_
  rw [getElem?_readList]
  by_cases hj : j < n
  · rw [if_pos hj, Nat.add_assoc, ← h.words (4 + j) (by rw [hlen, length_preamble]; omega)]
    exact burstLayout_payload (show 4 + j = 0 + 4 + j by omega) (hn.symm ▸ hj)
  · rw [if_neg hj, List.getElem?_eq_none (by omega)]

theorem carries_room : p + 4 + n ≤ u.strm.pcmLen.toNat := by
  have hroom := h.room
  rw [length_burstLayout, length_preamble, hn] at hroom
  omega

include hwf hcfg

/-- SCAN.FIND locks on the burst and BURST.DEC extracts its payload. -/
theorem decode_of_carries (hu : Running u) (hfmt : fmt < 2 ^ 13) (hpd : m.bits * n < 2 ^ m.bits) :
    ∃ v w, exec .scanFind u = .next v ∧ exec .burstDec v = .next w ∧ v.sc.mode = some m ∧
      v.sc.type = classifyPc s.cfg fmt m ∧ w.payout = u.payout ++ pay ∧ w.strm.pcmPos.toNat = p + 4 + n ∧
      w.faultFlag = false := by
  obtain ⟨hpreamble, hfirst⟩ := carries_first_preamble h hwf hcfg
  obtain ⟨-, -, hpc, hpdword⟩ := carries_preamble h
  have hroom := carries_room h hn
  have hfind : exec .scanFind u = .next (scanLock u p m) :=
    exec_scanFind_locks hu h.cursor (by omega) hpreamble hfirst
  have hpd' : (scanLock u p m).sc.pd.toNat = m.bits * n := by
    have h24 : 2 ^ m.bits ≤ 2 ^ 24 := Nat.pow_le_pow_right (by decide) (bits_le m)
    rw [scanLock_sc, hpdword, rj_lj_self (bits_le_32 m) hpd]
    exact Nat.mod_eq_of_lt (by omega)
  have hwords : extractWords (scanLock u p m).sc = n := by
    have hb := bits_pos m
    rw [extractWords_of_mode (m := m) rfl, hpd', Nat.add_sub_assoc hb, Nat.mul_add_div hb, Nat.div_eq_of_lt (by omega),
      Nat.add_zero]
  have hpos : (scanLock u p m).strm.pcmPos.toNat = p + 4 :=
    Nat.mod_eq_of_lt (Nat.lt_of_le_of_lt (Nat.le_of_add_right_le hroom) u.strm.pcmLen.isLt)
  have hfits : (scanLock u p m).strm.pcmPos.toNat + n ≤ (scanLock u p m).strm.pcmLen.toNat := hpos.symm ▸ hroom
  have hv : Running (scanLock u p m) := (faultFlag_setEof u false).trans hu
  have hdec := exec_burstDec_extracts hv rfl (hwords.symm ▸ hfits)
  rw [hwords] at hdec
  refine ⟨_, _, hfind, hdec, rfl, ?type, ?payout, ?pos, hv⟩
  case type =>
    have hstream : pc16 s fmt < 2 ^ 16 := Nat.lt_of_le_of_lt Nat.and_le_right (by decide)
    have hmod : pc16 s fmt % 2 ^ 13 = fmt % 2 ^ 13 := by
      rw [pc16_eq s hfmt, Nat.add_comm, Nat.add_mul_mod_self_right]
    rw [scanLock_sc, hpc, rj_lj_self (by decide) hstream]
    show classifyPc u.cfg (pc16 s fmt) m = _
    rw [hcfg, classifyPc_eq, classifyPc_eq, hmod]
  case payout =>
    rw [extractBurst_payout, hpos]
    show u.payout ++ u.pcm.readList (p + 4) n = _
    rw [carries_payload h hn]
  case pos => rw [extractBurst_pcmPos_toNat _ hfits, hpos]

end Decode

/-! ## The two round trips -/

/-- Settles O51: the burst of BURST.ENC in mode 16. -/
theorem encodedSetsAreDecoded : Obligations.EncodedSetsAreDecoded := by
  intro s t u p hwf hs henc ht hu hcfg hpos hzeros hroom hwords
  obtain ⟨-, -, -, hpd, hlen, rfl⟩ := burstEncBody_ok (bodyOf_ok_of_running henc hs ht)
  have h := carries_of_appended (s := s) rfl hlen hpos hzeros hroom hwords
  rw [normalBurst_eq] at h
  obtain ⟨v, w, hfind, hdec, -, htype, hpay, hcursor, hfault⟩ :=
    decode_of_carries h (length_setPayload _ _) hwf hcfg hu (fmtIdOf_lt _ _) hpd
  refine ⟨v, w, _, hfind, hdec, hpay, ?words, ?type, hcursor, hfault⟩
  case words =>
    rw [setPayload, List.map_map]
    refine List.map_congr_left fun x _ => ?_
    exact (Nat.shiftRight_eq_div_pow _ _).symm.trans (rj_lj_self (n := 16) (by decide) x.isLt)
  case type =>
    obtain ⟨hne, -⟩ := formatIds_ne hwf
    rw [htype, classifyPc_eq, Nat.mod_eq_of_lt (fmtIdOf_lt _ _)]
    cases s.fs.format with
    | ac3 => exact if_pos rfl
    | eac3 => exact (if_neg hne).trans (if_pos rfl)

/-- Settles O52: the burst of BURST.ENCDE in its own mode. -/
theorem encodedDolbyEIsDecoded : Obligations.EncodedDolbyEIsDecoded := by
  intro s t u len depth m p hwf hd hs henc ht hu hcfg hpos hzeros hroom hwords
  obtain ⟨m', hm', -, -, -, hfour, -, hpd, hlen, rfl⟩ := burstEncdeBody_ok (bodyOf_ok_of_running henc hs ht)
  obtain rfl : m' = m := Option.some.inj (hm'.symm.trans (depthOf_eq_some.2 hd))
  have h := carries_of_appended (s := s) rfl hlen hpos hzeros hroom hwords
  rw [dolbyEBurst_eq] at h
  obtain ⟨v, w, hfind, hdec, hmode, htype, hpay, hcursor, hfault⟩ :=
    decode_of_carries h (length_readList _ _ _) hwf hcfg hu (fmtIdDeOf_lt _ _) hpd
  refine ⟨v, w, hfind, hdec, hmode, ?type, hpay, ?cursor, hfault⟩
  case type =>
    obtain ⟨hne, hne'⟩ := (formatIds_ne hwf).2 m'
    rw [htype, classifyPc_eq, Nat.mod_eq_of_lt (fmtIdDeOf_lt _ _), if_neg hne, if_neg hne', if_pos rfl]
  case cursor => omega

end Sys2Proof.Laws
